-- ==== Sys2Proof/Word.lean ====
section
/-! DEFINITION. The word types of the block, one name for each width the spec gives. -/

namespace Sys2Proof

/-- R35: a byte is 8 bits. -/
abbrev Byte := BitVec 8

/-- R57: the header word, 16 bits. -/
abbrev HeaderWord := BitVec 16

/-- R14: the message id, 32 bits, unsigned. -/
abbrev MessageId := BitVec 32

/-- R16, R17: a node identifier, an opaque 64-bit value. -/
abbrev NodeId := BitVec 64

/-- R6: a header version, 4 bits, unsigned. -/
abbrev Version := BitVec 4

/-- R8 `LEN_W`, R19: a buffer length or capacity, 16 bits, unsigned; the spec's own choice D4 (DESIGN CHOICE, log 4). -/
abbrev Length := BitVec 16

/-- R53: the command field `OP`, 2 bits. -/
abbrev OpCode := BitVec 2

end Sys2Proof
end

