-- ==== Sys2Proof/Config.lean ====
section
/-! DEFINITION. What is fixed for one instance of the block: the constants of R7, the parameters of R8, and the free
values, which the spec leaves open and nothing in Lean constrains. -/

namespace Sys2Proof.Config

/-- R7 `FIXED_BYTES`: header word and message id. -/
def fixedBytes : Nat := 6

/-- R7 `NODE_ID_BYTES`: one optional identifier. -/
def nodeIdBytes : Nat := 8

/-- R7 `MAX_BYTES`, R8 `BUF_BYTES`: the largest header and the size of the window (R31). -/
def bufBytes : Nat := 22

/-- R7 `WORD_OFF`. -/
def wordOff : Nat := 0

/-- R7 `MSGID_OFF`. -/
def msgIdOff : Nat := 2

/-- R7 `OPT_OFF`: where the first present optional field stands. -/
def optOff : Nat := 6

/-- R7 `VERSION_MASK`. -/
def versionMask : HeaderWord := 0xF000#16

/-- R7 `VERSION_SHIFT`. -/
def versionShift : Nat := 12

/-- R7 `FLAG_SRC`: bit 9, source-present. -/
def flagSrc : HeaderWord := 0x0200#16

/-- R7 `FLAG_DST`: bit 8, destination-present. -/
def flagDst : HeaderWord := 0x0100#16

/-- The two arithmetics of the bounds check before the destination identifier (R8, R85, R91). -/
inductive BoundPolicy where
  /-- R85: what this block implements. -/
  | strict
  /-- R91: the reference's arithmetic, recorded for comparison and not implemented by this block. -/
  | parity
  deriving DecidableEq, Repr

/-- R8 `DST_BOUND_POLICY`: this block is STRICT (90_conflicts.md C1, D10; DESIGN CHOICE of the spec, log 14). -/
def dstBoundPolicy : BoundPolicy := .strict

/-- R6: the supported version `V` of the instance, which the spec keeps symbolic (D9; log 3). -/
opaque V : Version

/-- Free value: `MSG_ID` after a reset or a failed DEC (R29, R88; log 5, log 6). -/
opaque freeMsgId : Nat → MessageId

/-- Free value: `PRESENT` after a failed DEC (R88; log 5). -/
opaque freePresent : Nat → BitVec 2

/-- Free value: `SRC_ID` after a reset, a failed DEC, or a DEC without a source identifier (R29, R87, R88; log 5, log 6). -/
opaque freeSrcId : Nat → NodeId

/-- Free value: `DST_ID` after a reset, a failed DEC, or a DEC without a destination identifier (R29, R87, R88; log 5,
log 6). -/
opaque freeDstId : Nat → NodeId

/-- Free value: byte `i` of `BUF` that nothing has written since the reset of the given epoch (R29, R127, R128; log 7). -/
opaque freeByte : (epoch i : Nat) → Byte

end Sys2Proof.Config
end

