-- ==== Sys2Proof/Syntax.lean ====
section
/-! DEFINITION. The instructions of the block: one constructor for each row of spec/opcode_table.json. -/

namespace Sys2Proof

/-- The eight rows of the opcode table. The first four are the commands the host gives at the command port (R53, R54);
every operand of theirs stands in registers and in `BUF`, so they have no fields. The last four are the header words a
DEC fetches from `BUF` and interprets (R51, R57, R58): version (bits 15:12), reserved flags (bits 11:10), reserved (bits
7:0); the presence flags (bits 9, 8) select the constructor. -/
inductive Instr where
  /-- `OP = 0b00` (R73). -/
  | size
  /-- `OP = 0b01` (R77). -/
  | dec
  /-- `OP = 0b10` (R94). -/
  | enc
  /-- `OP = 0b11`, reserved (R55, R115). -/
  | op3
  /-- Shape NONE (R58): word and message id, 6 bytes. -/
  | hdrNone (version : Version) (flags : BitVec 2) (reserved : Byte)
  /-- Shape DST (R58): word, message id, destination identifier, 14 bytes. -/
  | hdrDst (version : Version) (flags : BitVec 2) (reserved : Byte)
  /-- Shape SRC (R58): word, message id, source identifier, 14 bytes. -/
  | hdrSrc (version : Version) (flags : BitVec 2) (reserved : Byte)
  /-- Shape BOTH (R58): word, message id, source identifier, destination identifier, 22 bytes. -/
  | hdrBoth (version : Version) (flags : BitVec 2) (reserved : Byte)
  deriving DecidableEq, Repr

end Sys2Proof
end

