-- ==== Sys2Proof/WellFormed.lean ====
section
/-! DEFINITION. Which instructions a producer of instruction words may emit. The widths of the fields are carried by
their types; what is left to check is the encode column of R57 (R66): the reserved bits are zero. -/

namespace Sys2Proof

/-- The check of the two reserved fields of a header word: 0 on encode (R57, R66). -/
def reservedZero (flags : BitVec 2) (reserved : Byte) : Bool :=
  flags == 0#2 && reserved == 0#8

/-- A command is always well formed; a header word is well formed when it is canonical in the sense of R68: its bits 11,
10 and 7 to 0 are zero. A header word that is not still decodes and runs (R65), so nothing about decoding or running
takes this as a hypothesis (DESIGN CHOICE, log 22). -/
def Instr.wellFormed : Instr → Bool
  | .size => true
  | .dec => true
  | .enc => true
  | .op3 => true
  | .hdrNone _ flags reserved => reservedZero flags reserved
  | .hdrDst _ flags reserved => reservedZero flags reserved
  | .hdrSrc _ flags reserved => reservedZero flags reserved
  | .hdrBoth _ flags reserved => reservedZero flags reserved

end Sys2Proof
end

