-- ==== Sys2Proof/Decode.lean ====
section
/-! DEFINITION. From bits to instructions and back: the 2-bit command at the command port (R53 to R55) and the 16-bit
header word at the head of `BUF` (R56 to R61); the encoder; the opcode table as rows. -/

namespace Sys2Proof

/-- The two encodings of the block (30_encoding.md). Which one applies is decided by where the bits come from: the
command port, or the first two bytes of `BUF`. -/
inductive Format where
  /-- R53: one 2-bit field. -/
  | cmd2
  /-- R57: the 16-bit header word, little-endian in two bytes (R34). -/
  | hdrWord16
  deriving DecidableEq, Repr

/-- Why some bytes are no instruction of a format. -/
inductive Reject where
  /-- No byte where a command is expected. -/
  | noCommand
  /-- A byte with a bit above `OP[1:0]` set: a command has no such bit (R53; log 18). -/
  | commandTooWide (b : Byte)
  /-- Fewer than the two bytes of a header word (R57). -/
  | headerWordCut
  deriving DecidableEq, Repr

/-! ## The command -/

/-- R54, R55: the operation a command code selects. The decoder of the 2-bit field is total. -/
def commandOf (op : OpCode) : Instr :=
  if op = 0b00#2 then .size
  else if op = 0b01#2 then .dec
  else if op = 0b10#2 then .enc
  else .op3

/-! ## The header word -/

/-- R60: `version = (word & 0xF000) >> 12`. -/
def wordVersion (w : HeaderWord) : Version :=
  ((w &&& Config.versionMask) >>> Config.versionShift).setWidth 4

/-- R61: `srcP = (word & 0x0200) != 0`. -/
def wordSrc (w : HeaderWord) : Bool :=
  (w &&& Config.flagSrc) != 0#16

/-- R61: `dstP = (word & 0x0100) != 0`. -/
def wordDst (w : HeaderWord) : Bool :=
  (w &&& Config.flagDst) != 0#16

/-- R57: the two reserved flags, bits 11 and 10. -/
def wordFlags (w : HeaderWord) : BitVec 2 :=
  w.extractLsb' 10 2

/-- R57: the reserved bits 7 to 0. -/
def wordReserved (w : HeaderWord) : Byte :=
  w.extractLsb' 0 8

/-- R58: the shape the two presence flags select. -/
def headerInstr (version : Version) (src dst : Bool) (flags : BitVec 2) (reserved : Byte) : Instr :=
  match src, dst with
  | false, false => .hdrNone version flags reserved
  | false, true => .hdrDst version flags reserved
  | true, false => .hdrSrc version flags reserved
  | true, true => .hdrBoth version flags reserved

/-- R57, R58: the header instruction a header word stands for. Every word is one: a version other than `V` is an error
of the DEC that interprets the word (R67), no reason to reject the word. -/
def headerOf (w : HeaderWord) : Instr :=
  headerInstr (wordVersion w) (wordSrc w) (wordDst w) (wordFlags w) (wordReserved w)

/-- R59: the length of the header a header word announces. -/
def headerLength (w : HeaderWord) : Nat :=
  Config.fixedBytes + Config.nodeIdBytes * (wordSrc w).toNat + Config.nodeIdBytes * (wordDst w).toNat

/-! ## The decoder -/

/-- The instruction at the head of some bytes, and the bytes after it. A header word is two bytes, the low one first
(R34). -/
def decode (f : Format) (bytes : List Byte) : Except Reject (Instr × List Byte) :=
  match f, bytes with
  | .cmd2, [] => .error .noCommand
  | .cmd2, b :: rest =>
    if b.toNat < 4 then .ok (commandOf (b.setWidth 2), rest) else .error (.commandTooWide b)
  | .hdrWord16, [] => .error .headerWordCut
  | .hdrWord16, [_] => .error .headerWordCut
  | .hdrWord16, lo :: hi :: rest => .ok (headerOf (hi ++ lo), rest)

/-! ## The encoder -/

/-- The format an instruction is encoded in. -/
def Instr.format : Instr → Format
  | .size => .cmd2
  | .dec => .cmd2
  | .enc => .cmd2
  | .op3 => .cmd2
  | .hdrNone _ _ _ => .hdrWord16
  | .hdrDst _ _ _ => .hdrWord16
  | .hdrSrc _ _ _ => .hdrWord16
  | .hdrBoth _ _ _ => .hdrWord16

/-- R57: the header word `vvvv rrsd rrrrrrrr`, most significant bit first. -/
def headerBits (version : Version) (flags : BitVec 2) (src dst : Bool) (reserved : Byte) : HeaderWord :=
  version ++ flags ++ BitVec.ofBool src ++ BitVec.ofBool dst ++ reserved

/-- R34: the two bytes of a header word as they stand in `BUF`. -/
def wordBytes (w : HeaderWord) : List Byte :=
  [w.extractLsb' 0 8, w.extractLsb' 8 8]

/-- The bytes of an instruction, from the tables of R54 and R57. A command stands in the low two bits of one byte. -/
def encode : Instr → List Byte
  | .size => [0b00#8]
  | .dec => [0b01#8]
  | .enc => [0b10#8]
  | .op3 => [0b11#8]
  | .hdrNone version flags reserved => wordBytes (headerBits version flags false false reserved)
  | .hdrDst version flags reserved => wordBytes (headerBits version flags false true reserved)
  | .hdrSrc version flags reserved => wordBytes (headerBits version flags true false reserved)
  | .hdrBoth version flags reserved => wordBytes (headerBits version flags true true reserved)

/-! ## The opcode table -/

/-- The mnemonic of spec/opcode_table.json. -/
def Instr.mnemonic : Instr → String
  | .size => "SIZE"
  | .dec => "DEC"
  | .enc => "ENC"
  | .op3 => "OP3"
  | .hdrNone _ _ _ => "HDR.NONE"
  | .hdrDst _ _ _ => "HDR.DST"
  | .hdrSrc _ _ _ => "HDR.SRC"
  | .hdrBoth _ _ _ => "HDR.BOTH"

/-- One row of the opcode table: a word of its format belongs to it when its masked bits are the pattern. -/
structure OpcodeRow where
  mnemonic : String
  format : Format
  mask : BitVec 16
  pattern : BitVec 16
  deriving DecidableEq, Repr

/-- Whether a word belongs to a row. -/
def OpcodeRow.holds (r : OpcodeRow) (f : Format) (w : BitVec 16) : Bool :=
  r.format == f && w &&& r.mask == r.pattern

/-- The opcode table (R54, R58; "match" and "mask" of spec/opcode_table.json). -/
def opcodeTable : List OpcodeRow :=
  [⟨"SIZE", .cmd2, 0x3#16, 0x0#16⟩,
   ⟨"DEC", .cmd2, 0x3#16, 0x1#16⟩,
   ⟨"ENC", .cmd2, 0x3#16, 0x2#16⟩,
   ⟨"OP3", .cmd2, 0x3#16, 0x3#16⟩,
   ⟨"HDR.NONE", .hdrWord16, 0x0300#16, 0x0000#16⟩,
   ⟨"HDR.DST", .hdrWord16, 0x0300#16, 0x0100#16⟩,
   ⟨"HDR.SRC", .hdrWord16, 0x0300#16, 0x0200#16⟩,
   ⟨"HDR.BOTH", .hdrWord16, 0x0300#16, 0x0300#16⟩]

/-- The format of a table row of a given size in bits, rounded up to whole bytes: a command is 2 bits, a header word 16. -/
def tableFormat (nbits : Nat) : Option Format :=
  if nbits = 0 then none else if nbits ≤ 8 then some .cmd2 else if nbits = 16 then some .hdrWord16 else none

/-- The bytes of a numbered word, lowest first: the order the block stores them in (R34). -/
def layBytes (nbits w : Nat) : List Byte :=
  (List.range ((nbits + 7) / 8)).map fun k => BitVec.ofNat 8 (w >>> (8 * k))

/-- The instruction the decoder reads from an instruction whose bits are `w`, numbered as spec/opcode_table.json numbers
them (log 18). -/
def decodeTableWord (nbits w : Nat) : Option Instr :=
  match tableFormat nbits with
  | none => none
  | some f =>
    match decode f (layBytes nbits w) with
    | .ok (i, _) => some i
    | .error _ => none

end Sys2Proof
end

