-- ==== Sys2Proof/Machine/State.lean ====
section
/-! DEFINITION. The state of one instance of the block as plain data, the actions of its host, the reasons a step can
stop, and the state after reset. -/

namespace Sys2Proof.Machine

/-- R20, R69: the completion status of an operation. The numbers stand at the register boundary (`Status.code`). -/
inductive Status where
  | ok
  | invalidArgument
  | versionMismatch
  | illegalOp
  deriving DecidableEq, Repr

/-- R10: the source's `MessageHeader`; absence is a state of its own, distinct from every value (R15). -/
structure Header where
  msgId : MessageId
  src : Option NodeId
  dst : Option NodeId
  deriving DecidableEq, Repr

/-- R31: the contents of `BUF`. `cells` lists the bytes something has written since the last reset, by rising index; an
index that is not listed has no value of its own, and reads as a free byte that depends on the reset (`epoch`) and the
index only (R29; log 7, log 8). -/
structure Memory where
  cells : List Host.Cell
  epoch : Nat
  deriving DecidableEq, Repr

/-- R12: the nine registers. -/
inductive Reg where
  | version | len | msgId | present | srcId | dstId | status | result | busy
  deriving DecidableEq, Repr

/-- A register together with a value of its width (R12): what a host write carries and a host read returns (log 17). -/
inductive RegVal where
  | version (v : Version)
  | len (v : Length)
  | msgId (v : MessageId)
  | present (v : BitVec 2)
  | srcId (v : NodeId)
  | dstId (v : NodeId)
  | status (v : BitVec 2)
  | result (v : BitVec 5)
  | busy (v : BitVec 1)
  deriving DecidableEq, Repr

/-- What a host read returned (R27, R71 `GET`, `DUMP`; log 12). -/
inductive Reading where
  | reg (v : RegVal)
  | bytes (index : Nat) (bs : List Byte)
  deriving DecidableEq, Repr

/-- R71: the actions of the host, one line each; R23, R24: the two halves of a start line on their own. -/
inductive HostAction where
  /-- `SET reg, value`: a host write of a register. -/
  | set (v : RegVal)
  /-- `SETSRC value` or `SETSRC none`. -/
  | setSrc (id : Option NodeId)
  /-- `SETDST value` or `SETDST none`. -/
  | setDst (id : Option NodeId)
  /-- `LOAD index, b0 b1 …`: host writes of `BUF[index]`, `BUF[index+1]`, …. -/
  | load (index : Nat) (bytes : List Byte)
  /-- `SIZE`, `DEC`, `ENC` or `OP3`: a start request with this `OP`, and the wait for `BUSY=0`, as one transaction. -/
  | start (op : OpCode)
  /-- The start request alone: the operation is in progress afterwards (R23; log 9). -/
  | launch (op : OpCode)
  /-- The wait for `BUSY=0` alone (R71; log 9, log 10). -/
  | await
  /-- `GET reg`: a host read of a register. -/
  | get (r : Reg)
  /-- `DUMP index, count`: host reads of `BUF[index]` to `BUF[index+count-1]`. -/
  | dump (index count : Nat)
  /-- `RESET`. -/
  | reset
  deriving DecidableEq, Repr

/-- Why the machine stops with a fault. No operation of the block faults: its errors are `STATUS` codes (R107). -/
inductive Fault where
  /-- A host `LOAD` or `DUMP` that reaches an index outside the 22 bytes of `BUF`, which name no byte (R31). Raised by
  `perform`. Safe: the model stops where no such byte exists (log 13). -/
  | noSuchByte (index : Nat)
  deriving DecidableEq, Repr

/-- Why the machine gives no meaning to a step. -/
inductive Refusal where
  /-- An instruction without a meaning; no arm of `exec` uses it. Safe. -/
  | notModelled (mnemonic : String)
  /-- A start request while `BUSY=1`, whose effect the spec calls undefined (R134, U7). Raised by `hostStep`. Safe: no
  claim covers such a host (log 11). -/
  | startWhileBusy
  /-- A host access while `BUSY=1` to anything but `BUSY`, whose effect the spec calls undefined (R133, U6). Raised by
  `hostStep`. Safe: no claim covers such a host (log 11). -/
  | hostAccessWhileBusy
  deriving DecidableEq, Repr

/-- The state of one instance (R11), the host's port, and the counter of the free values. -/
structure State where
  /-- `VERSION` (R18). -/
  version : Version
  /-- `LEN` (R19). -/
  len : Length
  /-- `MSG_ID` (R14). -/
  msgId : MessageId
  /-- `PRESENT`: bit 1 `SRC_VALID`, bit 0 `DST_VALID` (R15). -/
  present : BitVec 2
  /-- `SRC_ID` (R16). -/
  srcId : NodeId
  /-- `DST_ID` (R17). -/
  dstId : NodeId
  /-- `STATUS` (R20). -/
  status : Status
  /-- `RESULT` (R21). -/
  result : BitVec 5
  /-- `BUSY`, and the `OP` of the operation in progress (R23, R24): `BUSY=1` exactly when it is `some` (log 9). -/
  busyOp : Option OpCode
  /-- `BUF` (R30, R31). -/
  buf : Memory
  /-- The model's own: the host actions still to come, the next one first (log 1). -/
  agenda : List HostAction
  /-- The model's own: what the host's reads returned, the latest first (log 12). -/
  readings : List Reading
  /-- The model's own: the index of the next free values (log 5). -/
  draws : Nat
  deriving DecidableEq, Repr

/-- R29, R127: the state right after reset. `MSG_ID`, `SRC_ID`, `DST_ID` and `BUF`, which the spec leaves `unspecified`,
hold the free values of index 0 (log 6, log 7). -/
def State.reset : State where
  version := Config.V
  len := 0
  msgId := Config.freeMsgId 0
  present := 0
  srcId := Config.freeSrcId 0
  dstId := Config.freeDstId 0
  status := .ok
  result := 0
  busyOp := none
  buf := { cells := [], epoch := 0 }
  agenda := []
  readings := []
  draws := 1

end Sys2Proof.Machine
end

