-- ==== Sys2Proof/Machine/Flags.lean ====
section
/-! DEFINITION. The flag-like state of R25: the valid bits, the presence flags of the header word, and the status code. -/

namespace Sys2Proof.Machine

/-- `SRC_VALID = PRESENT[1]` (R15). -/
def State.srcValid (s : State) : Bool := s.present.getLsbD 1

/-- `DST_VALID = PRESENT[0]` (R15). -/
def State.dstValid (s : State) : Bool := s.present.getLsbD 0

/-- The register `PRESENT` from its two bits, in the order of header word bits 9 and 8 (R15, R70). -/
def presentOf (src dst : Bool) : BitVec 2 :=
  BitVec.ofBool src ++ BitVec.ofBool dst

/-- R64, R96: `(V << 12) | (SRC_VALID ? 0x0200 : 0) | (DST_VALID ? 0x0100 : 0)`. -/
def encWord (v : Version) (src dst : Bool) : HeaderWord :=
  (v.setWidth 16 <<< Config.versionShift) |||
    (if src then Config.flagSrc else 0#16) ||| (if dst then Config.flagDst else 0#16)

/-- R69: the number of a status. -/
def Status.code : Status → BitVec 2
  | .ok => 0b00#2
  | .invalidArgument => 0b01#2
  | .versionMismatch => 0b10#2
  | .illegalOp => 0b11#2

/-- R23: the bit `BUSY`. -/
def State.busy (s : State) : Bool := s.busyOp.isSome

end Sys2Proof.Machine
end

