-- ==== Sys2Proof/Machine/Ops.lean ====
section
/-! DEFINITION. The operations over memory and registers: the byte and marshal primitives (R36 to R40), the updates of
State, completion and `raise` (R9, R113 to R115), the free draws (R87, R88), reset (R127). -/

namespace Sys2Proof.Machine

/-! ## `BUF` -/

/-- The byte listed at an index, if any. -/
def cellAt : List Host.Cell → Nat → Option Byte
  | [], _ => none
  | (j, b) :: rest, i => if i = j then some b else cellAt rest i

/-- Lists a byte at an index, in its place by rising index, in place of the byte listed there before. -/
def putCell : List Host.Cell → Nat → Byte → List Host.Cell
  | [], i, b => [(i, b)]
  | (j, c) :: rest, i, b =>
    if i < j then (i, b) :: (j, c) :: rest
    else if i = j then (i, b) :: rest
    else (j, c) :: putCell rest i b

/-- What an index that is not listed reads as (R29; log 7). -/
def unlisted (epoch i : Nat) : Byte := Config.freeByte epoch i

/-- `BUF[i]` (R9, R31). Reading has no side effect (R46). -/
def Memory.byte (m : Memory) (i : Nat) : Byte :=
  (cellAt m.cells i).getD (unlisted m.epoch i)

/-- `BUF[i] <- b`. -/
def Memory.setByte (m : Memory) (i : Nat) (b : Byte) : Memory :=
  { m with cells := putCell m.cells i b }

/-- Stores bytes at rising indices. -/
def Memory.setBytes (m : Memory) (i : Nat) : List Byte → Memory
  | [] => m
  | b :: rest => (m.setByte i b).setBytes (i + 1) rest

/-- The bytes at `count` rising indices. -/
def Memory.bytes (m : Memory) (i count : Nat) : List Byte :=
  (List.range count).map fun k => m.byte (i + k)

/-- Indices strictly rising from a bound on. -/
def risingFrom : Nat → List Host.Cell → Bool
  | _, [] => true
  | lo, (i, _) :: rest => decide (lo ≤ i) && risingFrom (i + 1) rest

/-- The canonical form: the listed indices rise strictly and lie in the window (R31; log 8). -/
def Memory.wf (m : Memory) : Bool :=
  risingFrom 0 m.cells && m.cells.all fun c => decide (c.1 < Config.bufBytes)

/-- R36: the little-endian value of `n` bytes, `sum over k of zext(BUF[addr+k]) << (8*k)`. -/
def Memory.memRead (m : Memory) (addr n : Nat) : BitVec (8 * n) :=
  (List.range n).foldl (fun acc k => acc + ((m.byte (addr + k)).setWidth (8 * n) <<< (8 * k))) 0

/-- R37: byte `k` of a value, `(v >> (8*k))[7:0]`. -/
def byteOf {w : Nat} (v : BitVec w) (k : Nat) : Byte := (v >>> (8 * k)).setWidth 8

/-- R37: the little-endian store of a value of `n` bytes. -/
def Memory.memWrite (m : Memory) (addr n : Nat) (v : BitVec (8 * n)) : Memory :=
  m.setBytes addr ((List.range n).map (byteOf v))

/-- R38 `Read16`. -/
def Memory.read16 (m : Memory) (a : Nat) : BitVec 16 := m.memRead a 2
/-- R39 `Read32`. -/
def Memory.read32 (m : Memory) (a : Nat) : BitVec 32 := m.memRead a 4
/-- R40 `Read64`. -/
def Memory.read64 (m : Memory) (a : Nat) : BitVec 64 := m.memRead a 8
/-- R38 `Write16`. -/
def Memory.write16 (m : Memory) (a : Nat) (v : BitVec 16) : Memory := m.memWrite a 2 v
/-- R39 `Write32`. -/
def Memory.write32 (m : Memory) (a : Nat) (v : BitVec 32) : Memory := m.memWrite a 4 v
/-- R40 `Write64`. -/
def Memory.write64 (m : Memory) (a : Nat) (v : BitVec 64) : Memory := m.memWrite a 8 v

/-! ## Updates of State -/

/-- `LEN <- v`. -/
def State.withLen (s : State) (v : Length) : State := { s with len := v }

/-- The five `HDR` registers (R13), `SRC_VALID` and `DST_VALID` as `PRESENT`. -/
def State.withHdr (s : State) (msgId : MessageId) (present : BitVec 2) (srcId dstId : NodeId) : State :=
  { s with msgId := msgId, present := present, srcId := srcId, dstId := dstId }

/-- `STATUS <- st`, `RESULT <- r`. -/
def State.withOutcome (s : State) (st : Status) (r : BitVec 5) : State := { s with status := st, result := r }

/-- The operation in progress. -/
def State.withBusyOp (s : State) (op : Option OpCode) : State := { s with busyOp := op }

/-- The contents of `BUF`. -/
def State.withBuf (s : State) (m : Memory) : State := { s with buf := m }

/-- The host actions to come. -/
def State.withAgenda (s : State) (as : List HostAction) : State := { s with agenda := as }

/-- One more value returned to the host. -/
def State.withReading (s : State) (r : Reading) : State := { s with readings := r :: s.readings }

/-- One free draw taken. -/
def State.drawn (s : State) : State := { s with draws := s.draws + 1 }

/-! ## Completion, errors, free draws -/

/-- The end of every operation: `STATUS` and `RESULT` hold its outcome (R20, R21) and `BUSY` returns to 0 (R23). -/
def State.finish (s : State) (st : Status) (r : Nat) : State :=
  (s.withOutcome st (BitVec.ofNat 5 r)).withBusyOp none

/-- R9 `raise`, the one error entry of the block: the operation ends with the status code and `RESULT <- 0` (R113 to
R115). There is no handler and no transfer of control, and no return operation (R117). -/
def State.raise (s : State) (kind : Status) : State := s.finish kind 0

/-- R88: all five `HDR` registers become `unspecified`, a fresh draw each (log 5). -/
def State.freeHdr (s : State) : State :=
  (s.withHdr (Config.freeMsgId s.draws) (Config.freePresent s.draws) (Config.freeSrcId s.draws)
    (Config.freeDstId s.draws)).drawn

/-- R87: `HDR` takes a decoded header; the value register of an absent identifier becomes `unspecified` (log 5). -/
def State.loadHdr (s : State) (h : Header) : State :=
  (s.withHdr h.msgId (presentOf h.src.isSome h.dst.isSome) (h.src.getD (Config.freeSrcId s.draws))
    (h.dst.getD (Config.freeDstId s.draws))).drawn

/-- R127, R128: reset. What the spec leaves `unspecified` is drawn anew; `VERSION` is the instance's constant; the host's
actions and what it has read are the host's, outside the block (log 20). -/
def State.applyReset (s : State) : State :=
  { version := s.version
    len := 0
    msgId := Config.freeMsgId s.draws
    present := 0
    srcId := Config.freeSrcId s.draws
    dstId := Config.freeDstId s.draws
    status := .ok
    result := 0
    busyOp := none
    buf := { cells := [], epoch := s.draws }
    agenda := s.agenda
    readings := s.readings
    draws := s.draws + 1 }

/-! ## Host access to registers -/

/-- R12: the register a value belongs to. -/
def RegVal.reg : RegVal → Reg
  | .version _ => .version
  | .len _ => .len
  | .msgId _ => .msgId
  | .present _ => .present
  | .srcId _ => .srcId
  | .dstId _ => .dstId
  | .status _ => .status
  | .result _ => .result
  | .busy _ => .busy

/-- R12: the register of a number, as `x[no]` uses it. -/
def Reg.ofNo : Nat → Option Reg
  | 0 => some .version
  | 1 => some .len
  | 2 => some .msgId
  | 3 => some .present
  | 4 => some .srcId
  | 5 => some .dstId
  | 6 => some .status
  | 7 => some .result
  | 8 => some .busy
  | _ => none

/-- R12: which registers the host may write. -/
def Reg.hostWritable : Reg → Bool
  | .len => true
  | .msgId => true
  | .present => true
  | .srcId => true
  | .dstId => true
  | .version => false
  | .status => false
  | .result => false
  | .busy => false

/-- R12, R27: a host read of a register. -/
def State.readReg (s : State) : Reg → RegVal
  | .version => .version s.version
  | .len => .len s.len
  | .msgId => .msgId s.msgId
  | .present => .present s.present
  | .srcId => .srcId s.srcId
  | .dstId => .dstId s.dstId
  | .status => .status s.status.code
  | .result => .result s.result
  | .busy => .busy (BitVec.ofBool s.busy)

/-- R12, R27: a host write of a register replaces the whole register; a write to a read-only register has no effect. -/
def State.writeReg (s : State) : RegVal → State
  | .len v => s.withLen v
  | .msgId v => s.withHdr v s.present s.srcId s.dstId
  | .present v => s.withHdr s.msgId v s.srcId s.dstId
  | .srcId v => s.withHdr s.msgId s.present v s.dstId
  | .dstId v => s.withHdr s.msgId s.present s.srcId v
  | .version _ => s
  | .status _ => s
  | .result _ => s
  | .busy _ => s

/-- R71 `SETSRC`: `SRC_VALID <- 1, SRC_ID <- value`, or `SRC_VALID <- 0` alone; `DST_VALID` stays (log 21). -/
def State.setSrc (s : State) : Option NodeId → State
  | some v => s.withHdr s.msgId (presentOf true s.dstValid) v s.dstId
  | none => s.withHdr s.msgId (presentOf false s.dstValid) s.srcId s.dstId

/-- R71 `SETDST`: `DST_VALID <- 1, DST_ID <- value`, or `DST_VALID <- 0` alone; `SRC_VALID` stays (log 21). -/
def State.setDst (s : State) : Option NodeId → State
  | some v => s.withHdr s.msgId (presentOf s.srcValid true) s.srcId v
  | none => s.withHdr s.msgId (presentOf s.srcValid false) s.srcId s.dstId

end Sys2Proof.Machine
end

