-- ==== Sys2Proof/Machine/Operands.lean ====
section
/-! DEFINITION. The operands of the operations: the header in `HDR`, its size, the marshalling of the optional
identifiers at the cursor `pos`, and the two directions of the wire format. -/

namespace Sys2Proof.Machine

/-- R13, R15: the header the five `HDR` registers stand for. The value register of an absent identifier is not read. -/
def State.header (s : State) : Header where
  msgId := s.msgId
  src := if s.srcValid then some s.srcId else none
  dst := if s.dstValid then some s.dstId else none

/-- R73: `6 + 8*[source present] + 8*[destination present]`. -/
def encodedSize (src dst : Bool) : Nat :=
  Config.fixedBytes + Config.nodeIdBytes * src.toNat + Config.nodeIdBytes * dst.toNat

/-- R95: the size of the header in `HDR`, by the formula of SIZE. -/
def State.required (s : State) : Nat := encodedSize s.srcValid s.dstValid

/-! ## Decode -/

/-- The bytes that count as remaining before the destination identifier, at cursor `pos`. STRICT: `LEN - pos` (R85, R90).
PARITY: `LEN - 6`, less 6 and not 8 after a source identifier (R91). -/
def dstRemaining (p : Config.BoundPolicy) (len pos : Nat) : Nat :=
  match p with
  | .strict => len - pos
  | .parity => if pos = Config.optOff then len - Config.fixedBytes else len - Config.fixedBytes - Config.fixedBytes

/-- R77 steps 5 and 6: an optional identifier at the cursor, and the cursor after it. -/
def takeId (m : Memory) (present : Bool) (remaining pos : Nat) : Except Status (Option NodeId × Nat) :=
  if present then
    if remaining < Config.nodeIdBytes then .error .invalidArgument
    else .ok (some (m.read64 pos), pos + Config.nodeIdBytes)
  else .ok (none, pos)

/-- R77 steps 5 to 7: the message id and the optional identifiers of a header whose version has been accepted. -/
def parseFields (p : Config.BoundPolicy) (m : Memory) (len : Nat) (srcP dstP : Bool) : Except Status (Header × Nat) :=
  match takeId m srcP (len - Config.optOff) Config.optOff with
  | .error e => .error e
  | .ok (src, pos) =>
    match takeId m dstP (dstRemaining p len pos) pos with
    | .error e => .error e
    | .ok (dst, pos') => .ok ({ msgId := m.read32 Config.msgIdOff, src := src, dst := dst }, pos')

/-- R77: a buffer of `len` bytes whose header word has this version and these presence flags. The first failing check in
step order decides (R112): the length gate (R78), the version gate (R79), then the identifiers (R82, R83). -/
def parseHeader (p : Config.BoundPolicy) (v : Version) (m : Memory) (len : Nat) (version : Version) (srcP dstP : Bool) :
    Except Status (Header × Nat) :=
  if len < Config.fixedBytes then .error .invalidArgument
  else if version ≠ v then .error .versionMismatch
  else parseFields p m len srcP dstP

/-- R77, R87, R88, R113: the state after a decode with this outcome. -/
def State.finishDec (s : State) : Except Status (Header × Nat) → State
  | .ok (h, pos) => (s.loadHdr h).finish .ok pos
  | .error kind => s.freeHdr.raise kind

/-- What a header word of this version and these flags makes of the buffer (R58, R77). Its reserved bits are ignored
(R65), so they are no argument. -/
def State.runHeader (s : State) (version : Version) (srcP dstP : Bool) : State :=
  s.finishDec (parseHeader Config.dstBoundPolicy s.version s.buf s.len.toNat version srcP dstP)

/-- R92: the indices of `BUF` a DEC reads. -/
def decFootprint (v : Version) (len : Nat) (m : Memory) : List Nat :=
  if len < 6 then []
  else if wordVersion (m.read16 Config.wordOff) ≠ v then List.range 2
  else
    match wordSrc (m.read16 Config.wordOff), wordDst (m.read16 Config.wordOff) with
    | false, false => List.range 6
    | false, true => if len < 14 then List.range 6 else List.range 14
    | true, false => if len < 14 then List.range 6 else List.range 14
    | true, true => if len < 14 then List.range 6 else if len < 22 then List.range 14 else List.range 22

/-! ## Encode -/

/-- R98: an optional identifier written at the cursor, and the cursor after it; an absent one writes nothing. -/
def putId (m : Memory) (id : Option NodeId) (pos : Nat) : Memory × Nat :=
  match id with
  | some v => (m.write64 pos v, pos + Config.nodeIdBytes)
  | none => (m, pos)

/-- R94 steps 2 to 4: the wire form of a header at the head of `BUF`, and the cursor after it. -/
def putHeader (v : Version) (h : Header) (m : Memory) : Memory × Nat :=
  let m1 := m.write16 Config.wordOff (encWord v h.src.isSome h.dst.isSome)
  let m2 := m1.write32 Config.msgIdOff h.msgId
  let (m3, pos) := putId m2 h.src Config.optOff
  putId m3 h.dst pos

end Sys2Proof.Machine
end

