-- ==== Sys2Proof/Machine/Commands.lean ====
section
/-! DEFINITION. The meanings of the four commands (format CMD2, R54): SIZE, DEC, ENC and the reserved code. -/

namespace Sys2Proof.Machine

/-- `SIZE` (R73): `RESULT <- 6 + 8*[SRC_VALID = 1] + 8*[DST_VALID = 1]`, `STATUS <- OK`. It cannot fail. -/
def execSize (s : State) : Host.Outcome State Fault Refusal :=
  .next (s.finish .ok s.required)

/-- `DEC` (R77): below 6 bytes nothing is read (R78); else the header word at `BUF[0..1]` is fetched once and decides how
the buffer is interpreted (R79 to R87). -/
def execDec (s : State) : Host.Outcome State Fault Refusal :=
  .next (if s.len.toNat < Config.fixedBytes then s.freeHdr.raise .invalidArgument
    else
      let word := s.buf.read16 Config.wordOff
      s.runHeader (wordVersion word) (wordSrc word) (wordDst word))

/-- `ENC` (R94): all or nothing (R48). Too small a capacity raises `InvalidArgument` before the first write (R95, R100);
else the header goes to the head of `BUF` and `RESULT <- required` (R99). -/
def execEnc (s : State) : Host.Outcome State Fault Refusal :=
  .next (if s.len.toNat < s.required then s.raise .invalidArgument
    else (s.withBuf (putHeader s.version s.header s.buf).1).finish .ok s.required)

/-- `OP3` (R55, R110, R115): the reserved code completes with `IllegalOp` and changes nothing else. -/
def execOp3 (s : State) : Host.Outcome State Fault Refusal :=
  .next (s.raise .illegalOp)

end Sys2Proof.Machine
end

