-- ==== Sys2Proof/Machine/Headers.lean ====
section
/-! DEFINITION. The meanings of the four header words (format HDRWORD16, R58): what a DEC does with the buffer in `BUF`
when its header word is this one (R51, R77; log 2). The reserved bits are ignored (R65). -/

namespace Sys2Proof.Machine

/-- `HDR.NONE` (R58): word [0,2), messageId [2,6). -/
def execHdrNone (version : Version) (_flags : BitVec 2) (_reserved : Byte) (s : State) :
    Host.Outcome State Fault Refusal :=
  .next (s.runHeader version false false)

/-- `HDR.DST` (R58): word [0,2), messageId [2,6), destinationNodeId [6,14). -/
def execHdrDst (version : Version) (_flags : BitVec 2) (_reserved : Byte) (s : State) :
    Host.Outcome State Fault Refusal :=
  .next (s.runHeader version false true)

/-- `HDR.SRC` (R58): word [0,2), messageId [2,6), sourceNodeId [6,14). -/
def execHdrSrc (version : Version) (_flags : BitVec 2) (_reserved : Byte) (s : State) :
    Host.Outcome State Fault Refusal :=
  .next (s.runHeader version true false)

/-- `HDR.BOTH` (R58): word [0,2), messageId [2,6), sourceNodeId [6,14), destinationNodeId [14,22). -/
def execHdrBoth (version : Version) (_flags : BitVec 2) (_reserved : Byte) (s : State) :
    Host.Outcome State Fault Refusal :=
  .next (s.runHeader version true true)

end Sys2Proof.Machine
end

