-- ==== Sys2Proof/Machine/Dispatch.lean ====
section
/-! DEFINITION. One arm for each instruction. -/

namespace Sys2Proof.Machine

/-- The meaning of an instruction at a state. -/
def exec (i : Instr) (s : State) : Host.Outcome State Fault Refusal :=
  match i with
  | .size => Sys2Proof.Machine.execSize s
  | .dec => Sys2Proof.Machine.execDec s
  | .enc => Sys2Proof.Machine.execEnc s
  | .op3 => Sys2Proof.Machine.execOp3 s
  | .hdrNone version flags reserved => Sys2Proof.Machine.execHdrNone version flags reserved s
  | .hdrDst version flags reserved => Sys2Proof.Machine.execHdrDst version flags reserved s
  | .hdrSrc version flags reserved => Sys2Proof.Machine.execHdrSrc version flags reserved s
  | .hdrBoth version flags reserved => Sys2Proof.Machine.execHdrBoth version flags reserved s

end Sys2Proof.Machine
end

