-- ==== Sys2Proof/Machine/HostPort.lean ====
section
/-! DEFINITION. The host's port: what each action of R71 does, and what the host must not do while `BUSY=1` (R133, R134). -/

namespace Sys2Proof.Machine

/-- The end of the operation in progress: its outcome becomes visible as a whole and `BUSY` returns to 0 (R23, R47). With
none in progress there is nothing to wait for. -/
def complete (s : State) : Host.Outcome State Fault Refusal :=
  match s.busyOp with
  | some op => exec (commandOf op) s
  | none => .next s

/-- R31: whether `count` bytes from an index on lie in the window. DESIGN CHOICE (log 13): an access of zero bytes, which
reaches no byte, is held to the same test, so it goes on up to index 22 and stops above it; R31 and R71 are silent on it. -/
def inWindow (index count : Nat) : Bool := decide (index + count ≤ Config.bufBytes)

/-- The effect of a host action (R71) the host is free to take. -/
def perform (a : HostAction) (s : State) : Host.Outcome State Fault Refusal :=
  match a with
  | .set v => .next (s.writeReg v)
  | .setSrc id => .next (s.setSrc id)
  | .setDst id => .next (s.setDst id)
  | .load index bytes =>
    if inWindow index bytes.length then .next (s.withBuf (s.buf.setBytes index bytes)) else .fault (.noSuchByte index)
  | .start op => exec (commandOf op) s
  | .launch op => .next (s.withBusyOp (some op))
  | .await => complete s
  | .get r => .next (s.withReading (.reg (s.readReg r)))
  | .dump index count =>
    if inWindow index count then .next (s.withReading (.bytes index (s.buf.bytes index count)))
    else .fault (.noSuchByte index)
  | .reset => .next s.applyReset

/-- R133, R128: what the host may do while `BUSY=1`: read or write `BUSY` itself, wait, apply reset. -/
def HostAction.allowedBusy : HostAction → Bool
  | .get .busy => true
  | .set (.busy _) => true
  | .await => true
  | .reset => true
  | _ => false

/-- R134: the actions that are start requests. -/
def HostAction.starts : HostAction → Bool
  | .start _ => true
  | .launch _ => true
  | _ => false

/-- A host action at a state: refused by name where the spec calls its effect undefined (R133, R134, U6, U7; log 11). -/
def hostStep (a : HostAction) (s : State) : Host.Outcome State Fault Refusal :=
  if s.busy && !a.allowedBusy then .refused (if a.starts then .startWhileBusy else .hostAccessWhileBusy)
  else perform a s

end Sys2Proof.Machine
end

