-- ==== Sys2Proof/Machine/Step.lean ====
section
/-! DEFINITION. One step: the next action of the host, or, with none to come, the end of the operation in progress. -/

namespace Sys2Proof.Machine

/-- R49: one event of the total order of host accesses and operations. A start request runs the operation its `OP`
decodes to (R53). With no action to come an operation in progress completes (R140, R141) and an idle block holds its
state (R125, R127). -/
def step (s : State) : Host.Outcome State Fault Refusal :=
  match s.agenda with
  | a :: rest => hostStep a (s.withAgenda rest)
  | [] => complete s

/-- `s` with an instruction where the next step takes it from. A command is presented with a start request while
`BUSY=0`. A header word is put at the head of `BUF` (R56), `LEN` says that the buffer holds at least the fixed part (R78),
and the start request is a DEC, which fetches the word (log 19). -/
def State.withFetchWord (s : State) (nbits w : Nat) : State :=
  let idle := s.withBusyOp none
  if nbits ≤ 8 then idle.withAgenda (.start (BitVec.ofNat 2 w) :: s.agenda)
  else
    let word := BitVec.ofNat 16 w
    let loaded := idle.withBuf (s.buf.setBytes Config.wordOff (layBytes 16 w))
    let sized := loaded.withLen
      (if s.len.toNat < Config.fixedBytes then BitVec.ofNat 16 (headerLength word) else s.len)
    sized.withAgenda (.start 0b01#2 :: s.agenda)

end Sys2Proof.Machine
end

