-- ==== Sys2Proof/Safety.lean ====
section
/-! DEFINITION. What claims about runs are stated in: the host's discipline (R31, R133, R134), the invariants a step keeps,
and the frames of the operations (R26). -/

namespace Sys2Proof.Machine

/-- R31: the action stays within the 22 bytes of `BUF`. -/
def HostAction.inRange : HostAction → Bool
  | .load index bytes => inWindow index bytes.length
  | .dump index count => inWindow index count
  | _ => true

/-- The next action is one the spec gives the host: no access and no start while `BUSY=1` (R133, R134), and no index
outside `BUF` (R31). -/
def State.disciplined (s : State) : Bool :=
  match s.agenda with
  | [] => true
  | a :: _ => (!s.busy || a.allowedBusy) && a.inRange

/-- A step goes on to a next state. -/
def Proceeds (o : Host.Outcome State Fault Refusal) : Prop := ∃ t, o = .next t

/-- R21: `RESULT` is 0, 6, 14 or 22; after a failure it is 0. -/
def State.resultLegal (s : State) : Prop :=
  (s.result.toNat = 0 ∨ s.result.toNat = 6 ∨ s.result.toNat = 14 ∨ s.result.toNat = 22) ∧
    (s.status ≠ .ok → s.result.toNat = 0)

/-- Frame: `LEN`, `VERSION`, the host's port and every byte of `BUF` are as before. -/
def KeepsBuffer (s t : State) : Prop :=
  t.version = s.version ∧ t.len = s.len ∧ t.agenda = s.agenda ∧ t.readings = s.readings ∧
    t.buf.epoch = s.buf.epoch ∧ ∀ a, t.buf.byte a = s.buf.byte a

/-- Frame: the five `HDR` registers, `LEN`, `VERSION`, the host's port and the draw counter are as before. -/
def KeepsRegisters (s t : State) : Prop :=
  t.version = s.version ∧ t.len = s.len ∧ t.msgId = s.msgId ∧ t.present = s.present ∧ t.srcId = s.srcId ∧
    t.dstId = s.dstId ∧ t.agenda = s.agenda ∧ t.readings = s.readings ∧ t.draws = s.draws

/-- The outcome registers after an operation: `STATUS`, `RESULT`, and `BUSY=0` (R20, R21, R23). -/
def Ended (t : State) (st : Status) (r : Nat) : Prop :=
  t.status = st ∧ t.result.toNat = r ∧ t.busy = false

/-- R88: the five `HDR` registers hold the free values of the draw a failed DEC takes. -/
def HdrFree (s t : State) : Prop :=
  t.msgId = Config.freeMsgId s.draws ∧ t.present = Config.freePresent s.draws ∧
    t.srcId = Config.freeSrcId s.draws ∧ t.dstId = Config.freeDstId s.draws

/-- The 16-bit word a DEC fetches (R34, R38). -/
def State.word (s : State) : HeaderWord := s.buf.read16 Config.wordOff

end Sys2Proof.Machine
end

