-- ==== Sys2Proof/Certificates/Slice0/Obligations.lean ====
section
/-! DEFINITION. The statements for the provers, from the numbered rules of spec/. Each holds for every state, so for every
value of `VERSION` and of every free value; none rests on what a free value is. -/

open Sys2Proof Sys2Proof.Machine

/-! ## Encodings -/

/-- R54, R57, R58: no bit of an encoding is dropped; every instruction, with every field at every value, decodes from its
encoding, and the bytes after it are left. That a command's encoding is one byte is the model's choice (log 18; R53 has a
2-bit field and no bytes). -/
def Obligations.EncodeThenDecodeIsIdentity : Prop :=
  ∀ (i : Instr) (rest : List Byte), decode i.format (encode i ++ rest) = .ok (i, rest)

/-- R54, R57: bytes that decode are the encoding of what they decode to; no two encodings share an instruction. For the
commands this is the model's choice (log 18): R53 has a 2-bit field and no bytes, and the model holds it in the low two bits
of one byte and rejects a byte with a higher bit set. -/
def Obligations.DecodeThenEncodeIsIdentity : Prop :=
  ∀ (f : Format) (bytes : List Byte) (i : Instr) (rest : List Byte),
    decode f bytes = .ok (i, rest) → i.format = f ∧ encode i ++ rest = bytes

/-- R54, R55: the four command codes. -/
def Obligations.CommandCodesSelectTheirOperations : Prop :=
  commandOf 0b00#2 = .size ∧ commandOf 0b01#2 = .dec ∧ commandOf 0b10#2 = .enc ∧ commandOf 0b11#2 = .op3

/-- Header words written out from R57, and command codes of R54 put in the low two bits of one byte, decode to the
instructions they stand for (a sanity statement). The byte of a command is the model's choice (log 18): R54 gives 2-bit codes
and no bytes. -/
def Obligations.SpecWordsDecodeToTheirInstructions : Prop :=
  decode .cmd2 [0x01#8] = .ok (.dec, []) ∧
  decode .cmd2 [0x03#8] = .ok (.op3, []) ∧
  decode .hdrWord16 [0x00#8, 0x10#8] = .ok (.hdrNone 1#4 0#2 0x00#8, []) ∧
  decode .hdrWord16 [0x00#8, 0x11#8] = .ok (.hdrDst 1#4 0#2 0x00#8, []) ∧
  decode .hdrWord16 [0x00#8, 0x12#8] = .ok (.hdrSrc 1#4 0#2 0x00#8, []) ∧
  decode .hdrWord16 [0xFF#8, 0xFB#8] = .ok (.hdrBoth 15#4 2#2 0xFF#8, [])

/-- R54, R58: each word of a format belongs to exactly one row of the opcode table, the row of what it decodes to. -/
def Obligations.EveryWordMatchesExactlyOneTableRow : Prop :=
  (∀ w : HeaderWord,
    (opcodeTable.filter fun r => r.holds .hdrWord16 w).map (·.mnemonic) = [(headerOf w).mnemonic]) ∧
  ∀ op : OpCode,
    (opcodeTable.filter fun r => r.holds .cmd2 (op.setWidth 16)).map (·.mnemonic) = [(commandOf op).mnemonic]

/-- R60, R61: version and flags by mask and shift, and where they stand in the second byte of the buffer. -/
def Obligations.VersionAndFlagsStandInTheSecondByte : Prop :=
  (∀ w : HeaderWord, (wordVersion w).setWidth 16 = (w &&& 0xF000#16) >>> 12 ∧
    (wordSrc w = true ↔ w &&& 0x0200#16 ≠ 0) ∧ wordSrc w = w.getLsbD 9 ∧
    (wordDst w = true ↔ w &&& 0x0100#16 ≠ 0) ∧ wordDst w = w.getLsbD 8) ∧
  ∀ m : Memory, wordVersion (m.read16 0) = (m.byte 1).extractLsb' 4 4 ∧
    wordSrc (m.read16 0) = (m.byte 1).getLsbD 1 ∧ wordDst (m.read16 0) = (m.byte 1).getLsbD 0

/-- R64: the word an encode builds, as a concatenation, and the four words for `V=1`. -/
def Obligations.EncodedWordIsVersionFlagsAndZeros : Prop :=
  (∀ (v : Version) (src dst : Bool),
    encWord v src dst = (v.setWidth 16 <<< 12) ||| (if src then 0x0200#16 else 0) ||| (if dst then 0x0100#16 else 0) ∧
    encWord v src dst = (v ++ 0b00#2 ++ presentOf src dst ++ 0x00#8 : BitVec 16)) ∧
  encWord 1 false false = 0x1000#16 ∧ encWord 1 false true = 0x1100#16 ∧
  encWord 1 true false = 0x1200#16 ∧ encWord 1 true true = 0x1300#16

/-! ## The marshal primitives -/

/-- R36: the read value is the little-endian sum of its bytes, and depends on those bytes only. -/
def Obligations.MemReadIsTheLittleEndianSum : Prop :=
  ∀ (m : Memory) (addr n : Nat), (n = 2 ∨ n = 4 ∨ n = 8) → addr + n ≤ 22 →
    (m.memRead addr n).toNat = ∑ k ∈ Finset.range n, (m.byte (addr + k)).toNat * 2 ^ (8 * k) ∧
    ∀ m' : Memory, (∀ k < n, m'.byte (addr + k) = m.byte (addr + k)) → m'.memRead addr n = m.memRead addr n

/-- R37: byte `k` of the value goes to `BUF[addr+k]`, and no other byte is written. -/
def Obligations.MemWriteStoresExactlyItsBytes : Prop :=
  ∀ (m : Memory) (addr n : Nat) (v : BitVec (8 * n)), (n = 2 ∨ n = 4 ∨ n = 8) → addr + n ≤ 22 →
    (∀ k < n, (m.memWrite addr n v).byte (addr + k) = (v >>> (8 * k)).setWidth 8) ∧
    ∀ a, a < addr ∨ addr + n ≤ a → (m.memWrite addr n v).byte a = m.byte a

/-- R41: the two primitives are inverse to each other. -/
def Obligations.MarshalPrimitivesAreInverse : Prop :=
  ∀ (m : Memory) (addr n : Nat), (n = 2 ∨ n = 4 ∨ n = 8) → addr + n ≤ 22 →
    (∀ v : BitVec (8 * n), (m.memWrite addr n v).memRead addr n = v) ∧
    ∀ a, (m.memWrite addr n (m.memRead addr n)).byte a = m.byte a

/-! ## SIZE and the reserved code -/

/-- R73, R74: SIZE completes in every state, with the size in `RESULT`; everything else stays. -/
def Obligations.SizeCountsThePresentIdentifiers : Prop :=
  commandOf 0b00#2 = .size ∧
  ∀ s : State, ∃ t, exec .size s = .next t ∧
    Ended t .ok (6 + 8 * s.srcValid.toNat + 8 * s.dstValid.toNat) ∧ KeepsRegisters s t ∧ KeepsBuffer s t

/-- R75: the size is the length a decoder derives from the word ENC builds, the `RESULT` of a successful ENC of the same
header, and the `RESULT` of a successful DEC that produced the header. -/
def Obligations.SizeAgreesWithEncAndDec : Prop :=
  ∀ s : State, ∃ t, exec .size s = .next t ∧
    ((s.srcValid = false ∧ s.dstValid = false → t.result.toNat = 6) ∧
      (s.srcValid ≠ s.dstValid → t.result.toNat = 14) ∧
      (s.srcValid = true ∧ s.dstValid = true → t.result.toNat = 22)) ∧
    headerLength (encWord s.version s.srcValid s.dstValid) = t.result.toNat ∧
    (∀ u, exec .enc s = .next u → u.status = .ok → u.result = t.result) ∧
    ∀ u, exec .dec u = .next s → s.status = .ok → s.result = t.result

/-- R115: the reserved code completes in every state with `IllegalOp` and `RESULT = 0` and changes nothing else; SIZE never
fails. -/
def Obligations.ReservedCodeReportsIllegalOp : Prop :=
  ∀ s : State, (∃ t, exec (commandOf 0b11#2) s = .next t ∧ exec .op3 s = .next t ∧
      Ended t .illegalOp 0 ∧ KeepsRegisters s t ∧ KeepsBuffer s t) ∧
    ∃ t, exec .size s = .next t ∧ t.status = .ok

/-- R110: `IllegalOp` is raised exactly when a start request carries `OP = 0b11`. -/
def Obligations.IllegalOpExactlyForTheReservedCode : Prop :=
  ∀ (op : OpCode) (s : State), ∃ t, exec (commandOf op) s = .next t ∧ (t.status = .illegalOp ↔ op = 0b11#2)

/-! ## DEC -/

/-- R78: below 6 bytes a DEC fails with `InvalidArgument` and no byte of `BUF` has any influence; 6 is the smallest length
that can succeed. -/
def Obligations.DecLengthGateComesFirst : Prop :=
  (∀ s : State, s.len.toNat < 6 → ∃ t, exec .dec s = .next t ∧ Ended t .invalidArgument 0 ∧ KeepsBuffer s t ∧
    ∀ m, exec .dec (s.withBuf m) = .next (t.withBuf m)) ∧
  ∀ s : State, s.len.toNat = 6 → wordVersion s.word = s.version → wordSrc s.word = false → wordDst s.word = false →
    ∃ t, exec .dec s = .next t ∧ Ended t .ok 6

/-- R79: with at least 6 bytes a wrong version fails with `VersionMismatch` whatever the other bytes hold, and a
successfully decoded buffer has the version `V`. -/
def Obligations.DecVersionGateComesSecond : Prop :=
  (∀ s : State, 6 ≤ s.len.toNat → wordVersion s.word ≠ s.version →
    ∃ t, exec .dec s = .next t ∧ Ended t .versionMismatch 0 ∧ KeepsBuffer s t ∧
      ∀ m : Memory, m.byte 0 = s.buf.byte 0 → m.byte 1 = s.buf.byte 1 →
        exec .dec (s.withBuf m) = .next (t.withBuf m)) ∧
  ∀ s t : State, exec .dec s = .next t → t.status = .ok → wordVersion s.word = s.version

/-- R85 in one line: a DEC succeeds iff `LEN >= 6`, the version is `V`, and `LEN >= 6 + 8*srcP + 8*dstP`. -/
def Obligations.DecSucceedsExactlyWhenTheHeaderFits : Prop :=
  ∀ s : State, ∃ t, exec .dec s = .next t ∧
    (t.status = .ok ↔ 6 ≤ s.len.toNat ∧ wordVersion s.word = s.version ∧
      6 + 8 * (wordSrc s.word).toNat + 8 * (wordDst s.word).toNat ≤ s.len.toNat)

/-- From R87: the success outcome, which owes nothing to the `HDR` before. The last clause equates whole states, the register
of an absent identifier with them: that this register takes a free value of the draw, and so the same one whatever `HDR` held,
is the model's choice (log 5). R87 says only that nothing survives into the header, and R16 and U2 let the register keep its
old value. -/
def Obligations.DecSuccessFillsTheHeader : Prop :=
  ∀ s : State, 6 + 8 * (wordSrc s.word).toNat + 8 * (wordDst s.word).toNat ≤ s.len.toNat →
    wordVersion s.word = s.version →
    ∃ t, exec .dec s = .next t ∧
      Ended t .ok (6 + 8 * (wordSrc s.word).toNat + 8 * (wordDst s.word).toNat) ∧
      t.msgId = s.buf.read32 2 ∧
      t.srcValid = wordSrc s.word ∧ (wordSrc s.word = true → t.srcId = s.buf.read64 6) ∧
      t.dstValid = wordDst s.word ∧
      (wordDst s.word = true → t.dstId = s.buf.read64 (if wordSrc s.word then 14 else 6)) ∧
      KeepsBuffer s t ∧
      ∀ m p a b, exec .dec (s.withHdr m p a b) = .next t

/-- R113: the failure outcome, whatever the reason: the code of the first failing check, `RESULT = 0`, `BUSY = 0`, `BUF`
and `LEN` as before. -/
def Obligations.DecFailureOutcome : Prop :=
  ∀ s : State,
    (s.len.toNat < 6 ∨ wordVersion s.word ≠ s.version ∨
      s.len.toNat < 6 + 8 * (wordSrc s.word).toNat + 8 * (wordDst s.word).toNat) →
    ∃ t, exec .dec s = .next t ∧
      Ended t (if s.len.toNat < 6 then .invalidArgument
        else if wordVersion s.word ≠ s.version then .versionMismatch else .invalidArgument) 0 ∧
      KeepsBuffer s t

/-- R88, R87 and the model's own choice of log 5: what the spec leaves `unspecified` is a free value, a fresh draw each
time: all of `HDR` after a failure, the register of an absent identifier after a success. -/
def Obligations.DecLeavesUnspecifiedRegistersFree : Prop :=
  ∀ s : State, ∃ t, exec .dec s = .next t ∧ t.draws = s.draws + 1 ∧ (t.status ≠ .ok → HdrFree s t) ∧
    (t.status = .ok → (t.srcValid = false → t.srcId = Config.freeSrcId s.draws) ∧
      (t.dstValid = false → t.dstId = Config.freeDstId s.draws))

/-- R89: a DEC never writes `BUF` or `LEN`, so the same DEC issued again gives the same `STATUS`, `RESULT` and, on success,
the same header. -/
def Obligations.DecCanBeRepeated : Prop :=
  ∀ s : State, ∃ t u, exec .dec s = .next t ∧ exec .dec t = .next u ∧ KeepsBuffer s t ∧ KeepsBuffer s u ∧
    u.status = t.status ∧ u.result = t.result ∧ (t.status = .ok → u.header = t.header)

/-- R108: what raises `InvalidArgument`, and that nothing else does. -/
def Obligations.InvalidArgumentExactlyWhen : Prop :=
  ∀ s : State,
    (∃ t, exec .dec s = .next t ∧ (t.status = .invalidArgument ↔
      s.len.toNat < 6 ∨
      (wordVersion s.word = s.version ∧ wordSrc s.word = true ∧ s.len.toNat < 14) ∨
      (wordVersion s.word = s.version ∧ wordDst s.word = true ∧
        ((wordSrc s.word = false ∧ s.len.toNat < 14) ∨ (wordSrc s.word = true ∧ s.len.toNat < 22))))) ∧
    (∃ t, exec .enc s = .next t ∧ (t.status = .invalidArgument ↔
      s.len.toNat < 6 + 8 * s.srcValid.toNat + 8 * s.dstValid.toNat)) ∧
    (∃ t, exec .size s = .next t ∧ t.status ≠ .invalidArgument) ∧
    ∃ t, exec .op3 s = .next t ∧ t.status ≠ .invalidArgument

/-- R109: what raises `VersionMismatch`, that no other command does, and that it leaves the next operation as it would
be. -/
def Obligations.VersionMismatchExactlyWhen : Prop :=
  ∀ s : State,
    (∃ t, exec .dec s = .next t ∧ (t.status = .versionMismatch ↔
      6 ≤ s.len.toNat ∧ (s.buf.read16 0 &&& 0xF000#16) >>> 12 ≠ s.version.setWidth 16)) ∧
    (∀ op t, op ≠ 0b01#2 → exec (commandOf op) s = .next t → t.status ≠ .versionMismatch) ∧
    ∀ i, exec i (s.withOutcome .versionMismatch 0) = exec i (s.withOutcome .ok 0)

/-- From R92 with the model's own choice of log 5: the outcome of a DEC is a function of `V`, `LEN`, the bytes of its read
footprint, and its free draw; every index of the footprint is below `LEN` and below 22. The premise of equal draws, and so
the equality of what a failed DEC leaves in `HDR` and of the register of an absent identifier, are log 5 and no rule of the
spec; `DecOutcomeIsAFunctionOfItsFootprint` says R92 without them. -/
def Obligations.DecDependsOnItsFootprintOnly : Prop :=
  ∀ s : State, (∀ a ∈ decFootprint s.version s.len.toNat s.buf, a < s.len.toNat ∧ a < 22) ∧
    ∀ u : State, u.version = s.version → u.len = s.len → u.draws = s.draws →
      (∀ a ∈ decFootprint s.version s.len.toNat s.buf, u.buf.byte a = s.buf.byte a) →
      ∃ t w, exec .dec s = .next t ∧ exec .dec u = .next w ∧ w.status = t.status ∧ w.result = t.result ∧
        w.msgId = t.msgId ∧ w.present = t.present ∧ w.srcId = t.srcId ∧ w.dstId = t.dstId

/-- R92: every index of the read footprint is below `LEN` and below 22, and the outcome of a DEC (`STATUS`, `RESULT`, and
the header on success) is a function of `V`, `LEN` and the bytes at these indices only. Whatever else differs, the free draws
too: what R87 and R88 leave `unspecified` is no part of it. -/
def Obligations.DecOutcomeIsAFunctionOfItsFootprint : Prop :=
  ∀ s : State, (∀ a ∈ decFootprint s.version s.len.toNat s.buf, a < s.len.toNat ∧ a < 22) ∧
    ∀ u : State, u.version = s.version → u.len = s.len →
      (∀ a ∈ decFootprint s.version s.len.toNat s.buf, u.buf.byte a = s.buf.byte a) →
      ∃ t w, exec .dec s = .next t ∧ exec .dec u = .next w ∧ w.status = t.status ∧ w.result = t.result ∧
        (t.status = .ok → w.header = t.header)

/-- R65: bits 11, 10 and 7 to 0 of the header word have no influence on a DEC. -/
def Obligations.DecIgnoresReservedBits : Prop :=
  ∀ (s : State) (m : Memory), m.byte 1 &&& 0xF3#8 = s.buf.byte 1 &&& 0xF3#8 →
    (∀ a, 2 ≤ a → m.byte a = s.buf.byte a) →
    ∃ t, exec .dec s = .next t ∧ exec .dec (s.withBuf m) = .next (t.withBuf m)

/-- R86: trailing bytes are no error and have no influence: any length from `RESULT` on, and any bytes from `RESULT` on,
give the same outcome. -/
def Obligations.DecIgnoresTrailingBytes : Prop :=
  ∀ s t u : State, exec .dec s = .next t → t.status = .ok → u.version = s.version →
    t.result.toNat ≤ u.len.toNat → (∀ a < t.result.toNat, u.buf.byte a = s.buf.byte a) →
    ∃ w, exec .dec u = .next w ∧ w.status = .ok ∧ w.result = t.result ∧ w.header = t.header

/-- From R138: after a successful DEC the payload offset lies within the buffer; under PARITY it would not at 20 and 21. The
PARITY clause rests on the counter's starting value `LEN - 6`, which R91 and N6 mark as the spec's own inference (log 14). -/
def Obligations.PayloadOffsetNeverExceedsLen : Prop :=
  (∀ s t : State, exec .dec s = .next t → t.status = .ok → t.result.toNat ≤ s.len.toNat) ∧
  ∀ (m : Memory) (v : Version) (len : Nat), (len = 20 ∨ len = 21) →
    ∃ h, parseHeader .parity v m len v true true = .ok (h, 22) ∧ len < 22

/-- From R91: the two policies differ on exactly {version `V`, both flags, `LEN` = 20 or 21}. This rests on the starting
value `LEN - 6` of PARITY's counter, the spec's own inference (R91, N6; log 14); that PARITY reads the window from `LEN` on is
the model's form (log 14), and no clause says what it reads there. -/
def Obligations.PoliciesDifferOnlyAtTwentyAndTwentyOne : Prop :=
  ∀ (v version : Version) (m : Memory) (len : Nat) (src dst : Bool),
    (parseHeader .strict v m len version src dst ≠ parseHeader .parity v m len version src dst ↔
      version = v ∧ src = true ∧ dst = true ∧ (len = 20 ∨ len = 21)) ∧
    (version = v → src = true → dst = true → (len = 20 ∨ len = 21) →
      parseHeader .strict v m len version src dst = .error .invalidArgument)

/-! ## The header words -/

/-- From R58: the shape by bits 9 and 8, its size and its layout. The second clause runs a header word as an instruction, of
the right version and with enough bytes: it decodes the buffer by the byte ranges of the table. That a header word is an
instruction with a run of its own, on any `BUF`, is the model's reading of the opcode table's rows (log 2). -/
def Obligations.HeaderShapesDecodeTheirLayout : Prop :=
  (∀ w : HeaderWord, ((headerOf w).mnemonic = "HDR.NONE" ↔ w &&& 0x0300#16 = 0x0000#16) ∧
    ((headerOf w).mnemonic = "HDR.DST" ↔ w &&& 0x0300#16 = 0x0100#16) ∧
    ((headerOf w).mnemonic = "HDR.SRC" ↔ w &&& 0x0300#16 = 0x0200#16) ∧
    ((headerOf w).mnemonic = "HDR.BOTH" ↔ w &&& 0x0300#16 = 0x0300#16)) ∧
  ∀ (s : State) (f : BitVec 2) (r : Byte),
    (6 ≤ s.len.toNat → ∃ t, exec (.hdrNone s.version f r) s = .next t ∧ Ended t .ok 6 ∧ KeepsBuffer s t ∧
      t.header = { msgId := s.buf.read32 2, src := none, dst := none }) ∧
    (14 ≤ s.len.toNat → ∃ t, exec (.hdrDst s.version f r) s = .next t ∧ Ended t .ok 14 ∧ KeepsBuffer s t ∧
      t.header = { msgId := s.buf.read32 2, src := none, dst := some (s.buf.read64 6) }) ∧
    (14 ≤ s.len.toNat → ∃ t, exec (.hdrSrc s.version f r) s = .next t ∧ Ended t .ok 14 ∧ KeepsBuffer s t ∧
      t.header = { msgId := s.buf.read32 2, src := some (s.buf.read64 6), dst := none }) ∧
    (22 ≤ s.len.toNat → ∃ t, exec (.hdrBoth s.version f r) s = .next t ∧ Ended t .ok 22 ∧ KeepsBuffer s t ∧
      t.header = { msgId := s.buf.read32 2, src := some (s.buf.read64 6), dst := some (s.buf.read64 14) })

/-- R112 for the header words (model's reading of the rows, log 2): the length gate, then the version gate, then the
identifiers; a failure leaves `BUF` and `LEN`. -/
def Obligations.HeaderWordsFailInStepOrder : Prop :=
  ∀ (s : State) (v : Version) (src dst : Bool) (f : BitVec 2) (r : Byte),
    (s.len.toNat < 6 ∨ v ≠ s.version ∨ s.len.toNat < 6 + 8 * src.toNat + 8 * dst.toNat) →
    ∃ t, exec (headerInstr v src dst f r) s = .next t ∧
      Ended t (if s.len.toNat < 6 then .invalidArgument
        else if v ≠ s.version then .versionMismatch else .invalidArgument) 0 ∧
      KeepsBuffer s t

/-- R51, R58 (model's reading of the rows, log 2): a DEC is the run of the header word it fetches. -/
def Obligations.DecRunsTheHeaderWordItFetches : Prop :=
  ∀ s : State, exec .dec s = exec (headerOf s.word) s

/-! ## ENC -/

/-- R97, R98, R99, R101: a successful ENC, byte by byte; the bytes from `required` on and every register but `STATUS` and
`RESULT` stay. -/
def Obligations.EncWritesTheHeaderByteByByte : Prop :=
  ∀ s : State, 6 + 8 * s.srcValid.toNat + 8 * s.dstValid.toNat ≤ s.len.toNat →
    ∃ t, exec .enc s = .next t ∧ Ended t .ok (6 + 8 * s.srcValid.toNat + 8 * s.dstValid.toNat) ∧
      (putHeader s.version s.header s.buf).2 = t.result.toNat ∧ KeepsRegisters s t ∧
      t.buf.byte 0 = 0x00#8 ∧
      t.buf.byte 1 = (s.version.setWidth 8 <<< 4) ||| ((BitVec.ofBool s.srcValid).setWidth 8 <<< 1) |||
        (BitVec.ofBool s.dstValid).setWidth 8 ∧
      (∀ k < 4, t.buf.byte (2 + k) = s.msgId.extractLsb' (8 * k) 8) ∧
      (s.srcValid = true → ∀ k < 8, t.buf.byte (6 + k) = s.srcId.extractLsb' (8 * k) 8) ∧
      (s.dstValid = true → ∀ k < 8, t.buf.byte ((if s.srcValid then 14 else 6) + k) = s.dstId.extractLsb' (8 * k) 8) ∧
      ∀ a, 6 + 8 * s.srcValid.toNat + 8 * s.dstValid.toNat ≤ a → t.buf.byte a = s.buf.byte a

/-- R100, R114: with too small a capacity nothing is written. -/
def Obligations.EncTooSmallWritesNothing : Prop :=
  ∀ s : State, s.len.toNat < 6 + 8 * s.srcValid.toNat + 8 * s.dstValid.toNat →
    ∃ t, exec .enc s = .next t ∧ Ended t .invalidArgument 0 ∧ KeepsRegisters s t ∧ KeepsBuffer s t

/-- R102: an ENC never writes `HDR` or `LEN` and never reads `BUF`; its outcome and the bytes it writes depend on `V`, `LEN`
and the header only, so not on the registers of absent identifiers. -/
def Obligations.EncReadsOnlyTheHeader : Prop :=
  ∀ s u : State, u.version = s.version → u.len = s.len → u.header = s.header →
    ∃ t w, exec .enc s = .next t ∧ exec .enc u = .next w ∧ KeepsRegisters s t ∧ w.status = t.status ∧
      w.result = t.result ∧ ∀ a < t.result.toNat, w.buf.byte a = t.buf.byte a

/-- R66: an encode writes the reserved bits as 0; the word in `BUF` is the well-formed header instruction of the shape in
`PRESENT`, with version `V`. -/
def Obligations.EncEmitsTheWellFormedHeaderWord : Prop :=
  ∀ s : State, 6 + 8 * s.srcValid.toNat + 8 * s.dstValid.toNat ≤ s.len.toNat →
    ∃ t, exec .enc s = .next t ∧ t.word &&& 0x0CFF#16 = 0 ∧ t.buf.byte 0 = 0x00#8 ∧
      headerOf t.word = headerInstr s.version s.srcValid s.dstValid 0 0 ∧ (headerOf t.word).wellFormed = true

/-- R103: decode of encode is the header, at every length that holds it and with the encoded bytes untouched; at a smaller
length the decode fails. -/
def Obligations.DecodeOfEncodeIsTheHeader : Prop :=
  ∀ s : State, 6 + 8 * s.srcValid.toNat + 8 * s.dstValid.toNat ≤ s.len.toNat →
    ∃ t, exec .enc s = .next t ∧ Ended t .ok (6 + 8 * s.srcValid.toNat + 8 * s.dstValid.toNat) ∧
      ∀ u : State, u.version = s.version → (∀ a < t.result.toNat, u.buf.byte a = t.buf.byte a) →
        ∃ w, exec .dec u = .next w ∧
          (t.result.toNat ≤ u.len.toNat → Ended w .ok t.result.toNat ∧ w.header = s.header) ∧
          (u.len.toNat < t.result.toNat → w.status = .invalidArgument)

/-- R104: an ENC after a successful DEC rewrites the header in canonical form and nothing else, so it leaves `BUF` as it
was iff the reserved bits were zero. -/
def Obligations.EncodeOfDecodeIsCanonical : Prop :=
  ∀ s t : State, exec .dec s = .next t → t.status = .ok →
    ∃ u, exec .enc t = .next u ∧ u.status = .ok ∧ u.result = t.result ∧ u.buf.byte 0 = 0x00#8 ∧
      u.buf.byte 1 = s.buf.byte 1 &&& 0xF3#8 ∧ (∀ a, 2 ≤ a → u.buf.byte a = s.buf.byte a) ∧
      ((∀ a, u.buf.byte a = s.buf.byte a) ↔ s.word &&& 0x0CFF#16 = 0)

/-- R105: two headers that differ give different `RESULT` or different bytes below it. -/
def Obligations.EncodeIsInjective : Prop :=
  ∀ s u t w : State, exec .enc s = .next t → exec .enc u = .next w → t.status = .ok → w.status = .ok →
    t.result = w.result → (∀ a < t.result.toNat, t.buf.byte a = w.buf.byte a) → s.header = u.header

/-! ## The whole machine -/

/-- R140: every operation completes, from every state, with `BUSY = 0`. -/
def Obligations.EveryOperationCompletes : Prop :=
  ∀ (i : Instr) (s : State), ∃ t, exec i s = .next t ∧ t.busy = false

/-- R117: no operation depends on the `STATUS` and `RESULT` before it, and no host access but a start, the completion it
waits for and a reset changes them. -/
def Obligations.StatusIsNotSticky : Prop :=
  (∀ (i : Instr) (s : State) (k : Status) (r : BitVec 5), exec i (s.withOutcome k r) = exec i s) ∧
  ∀ (a : HostAction) (s t : State), perform a s = .next t → (∀ op, a ≠ .start op) → a ≠ .await → a ≠ .reset →
    t.status = s.status ∧ t.result = s.result

/-- R26: no operation writes `LEN`, `VERSION` or the host's side; only ENC writes `BUF`; only DEC, by way of the header word
it fetches, writes `HDR`. -/
def Obligations.OperationsWriteOnlyWhatTheAccessTableSays : Prop :=
  ∀ (i : Instr) (s t : State), exec i s = .next t →
    t.version = s.version ∧ t.len = s.len ∧ t.agenda = s.agenda ∧ t.readings = s.readings ∧
    (i ≠ .enc → ∀ a, t.buf.byte a = s.buf.byte a) ∧
    (i = .size ∨ i = .enc ∨ i = .op3 →
      t.msgId = s.msgId ∧ t.present = s.present ∧ t.srcId = s.srcId ∧ t.dstId = s.dstId)

/-- From R53, in the model's form: a step on a start request runs the instruction the command decodes to; a step on a DEC
runs the header instruction the two bytes at the head of `BUF` decode to. The step takes the request off the host's list and
adds nothing else. The list is log 1, a command's byte log 18, and that a DEC runs a header instruction log 2 (DEDUCED). -/
def Obligations.StepRunsTheDecodedInstruction : Prop :=
  (∀ (s : State) (b : Byte) (i : Instr) (rest : List HostAction), decode .cmd2 [b] = .ok (i, []) → s.busy = false →
    s.agenda = .start (b.setWidth 2) :: rest → step s = exec i (s.withAgenda rest)) ∧
  ∀ (s : State) (i : Instr) (rest : List HostAction), decode .hdrWord16 [s.buf.byte 0, s.buf.byte 1] = .ok (i, []) →
    s.busy = false → s.agenda = .start 0b01#2 :: rest → step s = exec i (s.withAgenda rest)

/-- R23 (the model's two-step form of it, log 9): a start request alone sets `BUSY` and shows nothing else; the wait after
it gives what the whole transaction gives in one step. -/
def Obligations.HandshakeRefinesTheTransaction : Prop :=
  ∀ (s : State) (op : OpCode) (rest : List HostAction), s.busy = false → s.agenda = .launch op :: .await :: rest →
    ∃ m, step s = .next m ∧ m.busy = true ∧ KeepsBuffer (s.withAgenda (.await :: rest)) m ∧
      (∀ r, r ≠ .busy → m.readReg r = s.readReg r) ∧
      step m = step (s.withAgenda (.start op :: rest))

/-- R133, R134, U6, U7: while `BUSY=1` a start request and an access to anything but `BUSY` are refused by name. -/
def Obligations.BusyBlockRefusesTheHost : Prop :=
  ∀ (s : State) (a : HostAction) (rest : List HostAction), s.busy = true → s.agenda = a :: rest →
    ((∀ op, a = .start op ∨ a = .launch op → step s = .refused .startWhileBusy) ∧
      ((∃ v, a = .set v ∧ v.reg ≠ .busy) ∨ (∃ r, a = .get r ∧ r ≠ .busy) ∨ (∃ id, a = .setSrc id) ∨
        (∃ id, a = .setDst id) ∨ (∃ n bs, a = .load n bs) ∨ (∃ n c, a = .dump n c) →
        step s = .refused .hostAccessWhileBusy))

/-- R139, R140 with the discipline of R133, R134 and R31: a step of a machine whose host keeps the rules never stops. -/
def Obligations.DisciplinedHostNeverStops : Prop :=
  ∀ s : State, s.disciplined = true → Proceeds (step s)

/-- R127, R128: a reset, while busy or not, puts the control registers at their reset values and keeps `V`; then the block
does nothing until the host starts an operation. -/
def Obligations.ResetPutsTheControlRegisters : Prop :=
  ∀ (s : State) (rest : List HostAction), s.agenda = .reset :: rest →
    ∃ t, step s = .next t ∧ Ended t .ok 0 ∧ t.len = 0 ∧ t.present = 0b00#2 ∧ t.version = s.version ∧
      t.agenda = rest ∧ step (t.withAgenda []) = .next (t.withAgenda [])

/-- R29: the values the spec gives the state after reset. -/
def Obligations.ResetStateHasItsValues : Prop :=
  State.reset.busy = false ∧ State.reset.status = .ok ∧ State.reset.result = 0 ∧ State.reset.len = 0 ∧
    State.reset.present = 0b00#2 ∧ State.reset.version = Config.V

/-- R129: the three operations right after reset, whichever the reset. -/
def Obligations.OperationsRightAfterReset : Prop :=
  ∀ s : State, (s = State.reset ∨ ∃ u : State, s = u.applyReset) →
    (∃ t, exec .size s = .next t ∧ Ended t .ok 6) ∧
    (∃ t, exec .dec s = .next t ∧ Ended t .invalidArgument 0 ∧ ∀ m, exec .dec (s.withBuf m) = .next (t.withBuf m)) ∧
    ∃ t, exec .enc s = .next t ∧ Ended t .invalidArgument 0 ∧ KeepsBuffer s t

/-- R12, R27: a host write replaces the whole register and nothing else; on a read-only register it has no effect. -/
def Obligations.HostWriteReplacesItsRegister : Prop :=
  ∀ (s : State) (v : RegVal) (rest : List HostAction), s.busy = false → s.agenda = .set v :: rest →
    ∃ t, step s = .next t ∧
      t.readReg v.reg = (if v.reg.hostWritable then v else s.readReg v.reg) ∧
      (∀ r, r ≠ v.reg → t.readReg r = s.readReg r) ∧
      (∀ a, t.buf.byte a = s.buf.byte a) ∧ t.agenda = rest ∧ t.readings = s.readings

/-- R12, R27, R46: a host read returns the register and changes no register and no byte; `BUSY` may be read at any time. -/
def Obligations.HostReadReturnsItsRegister : Prop :=
  ∀ (s : State) (r : Reg) (rest : List HostAction), (s.busy = false ∨ r = .busy) → s.agenda = .get r :: rest →
    ∃ t, step s = .next t ∧ t.readings = .reg (s.readReg r) :: s.readings ∧
      (∀ q, t.readReg q = s.readReg q) ∧ (∀ a, t.buf.byte a = s.buf.byte a) ∧ t.agenda = rest

/-- From R15 and R71: `SETSRC` and `SETDST` set one optional identifier of the header and leave the rest of it. R27 and R72
make them host writes of whole registers; that the other valid bit stays, and that a `none` leaves the value register, is the
model's reading (log 21, DEDUCED). The other identifier's register stays, whether or not it is present. -/
def Obligations.SetSrcAndSetDstSetOneIdentifier : Prop :=
  ∀ (s : State) (id : Option NodeId) (rest : List HostAction), s.busy = false →
    (s.agenda = .setSrc id :: rest → ∃ t, step s = .next t ∧
      t.header = { msgId := s.msgId, src := id, dst := s.header.dst } ∧ (id = none → t.srcId = s.srcId) ∧
      t.dstId = s.dstId ∧ t.len = s.len ∧ t.status = s.status ∧ t.result = s.result ∧ ∀ a, t.buf.byte a = s.buf.byte a) ∧
    (s.agenda = .setDst id :: rest → ∃ t, step s = .next t ∧
      t.header = { msgId := s.msgId, src := s.header.src, dst := id } ∧ (id = none → t.dstId = s.dstId) ∧
      t.srcId = s.srcId ∧ t.len = s.len ∧ t.status = s.status ∧ t.result = s.result ∧ ∀ a, t.buf.byte a = s.buf.byte a)

/-- R31, R46, R49: the bytes a host stores are the bytes it reads back, no other byte and no register changes; outside the
22 bytes of `BUF` the model stops, with zero bytes from an index above 22 too (log 13). -/
def Obligations.HostLoadIsReadBack : Prop :=
  ∀ (s : State) (n : Nat) (bs : List Byte) (rest : List HostAction), s.busy = false →
    s.agenda = .load n bs :: .dump n bs.length :: rest →
    (n + bs.length ≤ 22 → ∃ t u, step s = .next t ∧ step t = .next u ∧
      u.readings = .bytes n bs :: s.readings ∧ (∀ r, u.readReg r = s.readReg r) ∧
      ∀ a, a < n ∨ n + bs.length ≤ a → u.buf.byte a = s.buf.byte a) ∧
    (22 < n + bs.length → step s = .fault (.noSuchByte n))

/-! ## Invariants -/

/-- Every step keeps the listed indices of `BUF` in the window of R31, and strictly rising: the canonical form of the list is
the model's representation (log 8, DESIGN CHOICE), not a rule of the spec. -/
def Obligations.StepKeepsBufCanonical : Prop :=
  ∀ s t : State, s.buf.wf = true → step s = .next t → t.buf.wf = true

/-- `BUF` is canonical after reset: its list is empty, in the model's representation (log 8, DESIGN CHOICE). -/
def Obligations.ResetBufIsCanonical : Prop := State.reset.buf.wf = true

/-- R21: every step keeps `RESULT` one of 0, 6, 14, 22, and 0 after a failure. -/
def Obligations.StepKeepsResultLegal : Prop :=
  ∀ s t : State, s.resultLegal → step s = .next t → t.resultLegal

/-- `RESULT` is legal after reset. -/
def Obligations.ResetResultIsLegal : Prop := State.reset.resultLegal

/-- R11, R18: `VERSION` is the constant `V`: no step changes it. -/
def Obligations.VersionNeverChanges : Prop :=
  State.reset.version = Config.V ∧ ∀ s t : State, step s = .next t → t.version = s.version
end

