-- ==== Sys2Proof/Laws/Encoding.lean ====
section
/-! SUPPORT. The bits of header words: what the encoder puts where, and what the decoder's masks and shifts take. -/

namespace Sys2Proof

/-- The bits of two bytes put together, the low byte first. -/
theorem appendByte_getLsbD (hi lo : Byte) (i : Nat) :
    @BitVec.getLsbD 16 (hi ++ lo) i = if i < 8 then lo.getLsbD i else hi.getLsbD (i - 8) := by
  show @BitVec.getLsbD (8 + 8) _ i = _
  rw [BitVec.getLsbD_append]

/-- R60: the version is bits 15 to 12. -/
theorem wordVersion_getLsbD (w : HeaderWord) (i : Nat) (h : i < 4) : (wordVersion w).getLsbD i = w.getLsbD (12 + i) := by
  have : i = 0 ∨ i = 1 ∨ i = 2 ∨ i = 3 := by omega
  rcases this with rfl | rfl | rfl | rfl <;> simp [wordVersion, Config.versionMask, Config.versionShift]

/-- R61: the source-present flag is bit 9. -/
theorem wordSrc_eq_bit (w : HeaderWord) : wordSrc w = w.getLsbD 9 := by
  rw [wordSrc, show Config.flagSrc = BitVec.twoPow 16 9 from rfl, BitVec.and_twoPow]
  cases w.getLsbD 9 <;> decide

/-- R61: the destination-present flag is bit 8. -/
theorem wordDst_eq_bit (w : HeaderWord) : wordDst w = w.getLsbD 8 := by
  rw [wordDst, show Config.flagDst = BitVec.twoPow 16 8 from rfl, BitVec.and_twoPow]
  cases w.getLsbD 8 <;> decide

theorem wordFlags_getLsbD (w : HeaderWord) (i : Nat) (h : i < 2) : (wordFlags w).getLsbD i = w.getLsbD (10 + i) := by
  rw [wordFlags, BitVec.getLsbD_extractLsb']; simp [h]

theorem wordReserved_getLsbD (w : HeaderWord) (i : Nat) (h : i < 8) : (wordReserved w).getLsbD i = w.getLsbD i := by
  rw [wordReserved, BitVec.getLsbD_extractLsb']; simp [h]

/-- R57: the bits of an encoded header word, `vvvv rrsd rrrrrrrr`. -/
theorem headerBits_getLsbD (v : Version) (f : BitVec 2) (a b : Bool) (r : Byte) (i : Nat) :
    (headerBits v f a b r).getLsbD i =
      if i < 8 then r.getLsbD i else if i = 8 then b else if i = 9 then a
      else if i < 12 then f.getLsbD (i - 10) else v.getLsbD (i - 12) := by
  show @BitVec.getLsbD (4 + 2 + 1 + 1 + 8) (v ++ f ++ BitVec.ofBool a ++ BitVec.ofBool b ++ r) i = _
  simp only [BitVec.getLsbD_append, BitVec.getLsbD_ofBool]
  by_cases h8 : i < 8
  · simp [h8]
  · obtain ⟨k, rfl⟩ : ∃ k, i = 8 + k := ⟨i - 8, by omega⟩
    match k with
    | 0 => simp
    | 1 => simp
    | 2 => simp
    | 3 => simp
    | k + 4 =>
      have e1 : ¬ 8 + (k + 4) < 8 := by omega
      have e2 : ¬ 8 + (k + 4) - 8 < 1 := by omega
      have e3 : ¬ 8 + (k + 4) - 8 - 1 < 1 := by omega
      have e4 : ¬ 8 + (k + 4) - 8 - 1 - 1 < 2 := by omega
      have e5 : ¬ 8 + (k + 4) = 8 := by omega
      have e6 : ¬ 8 + (k + 4) = 9 := by omega
      have e7 : ¬ 8 + (k + 4) < 12 := by omega
      simp only [e1, e2, e3, e4, e5, e6, e7, if_false]
      congr 1

end Sys2Proof
end

