-- ==== Sys2Proof/Laws/Memory.lean ====
section
/-! SUPPORT. What the byte operations of `BUF` do, and that every one of them keeps the canonical form. -/

namespace Sys2Proof.Machine

/-! ## Reading back -/

theorem cellAt_putCell (cs : List Host.Cell) (i j : Nat) (b : Byte) :
    cellAt (putCell cs i b) j = if j = i then some b else cellAt cs j := by
  induction cs with
  | nil => simp [putCell, cellAt]
  | cons c rest ih =>
    obtain ⟨k, x⟩ := c
    by_cases hlt : i < k
    · simp [putCell, cellAt, hlt]
    · by_cases heq : i = k
      · subst heq
        by_cases hj : j = i <;> simp [putCell, cellAt, hj]
      · by_cases hj : j = k
        · subst hj
          have : ¬ j = i := fun h => heq h.symm
          simp [putCell, cellAt, hlt, heq, this]
        · simp [putCell, cellAt, hlt, heq, hj, ih]

/-- A byte written is read back; every other byte reads as before. -/
@[simp] theorem Memory.byte_setByte (m : Memory) (i j : Nat) (b : Byte) :
    (m.setByte i b).byte j = if j = i then b else m.byte j := by
  by_cases h : j = i <;> simp [Memory.byte, Memory.setByte, cellAt_putCell, h]

@[simp] theorem Memory.setByte_epoch (m : Memory) (i : Nat) (b : Byte) : (m.setByte i b).epoch = m.epoch := rfl

@[simp] theorem Memory.setBytes_epoch (m : Memory) (i : Nat) (bs : List Byte) :
    (m.setBytes i bs).epoch = m.epoch := by
  induction bs generalizing m i with
  | nil => rfl
  | cons b rest ih => simp [Memory.setBytes, ih]

/-- A store of bytes leaves every byte outside its range. -/
theorem Memory.byte_setBytes_outside (m : Memory) (i j : Nat) (bs : List Byte) (h : j < i ∨ i + bs.length ≤ j) :
    (m.setBytes i bs).byte j = m.byte j := by
  induction bs generalizing m i with
  | nil => rfl
  | cons b rest ih =>
    simp only [List.length_cons] at h
    have hne : ¬ j = i := by omega
    rw [Memory.setBytes, ih _ _ (by omega), Memory.byte_setByte, if_neg hne]

/-- A store of bytes puts byte `k` at index `i + k`. -/
theorem Memory.byte_setBytes_inside (m : Memory) (i k : Nat) (bs : List Byte) (h : k < bs.length) :
    (m.setBytes i bs).byte (i + k) = bs[k] := by
  induction bs generalizing m i k with
  | nil => simp at h
  | cons b rest ih =>
    cases k with
    | zero => rw [Memory.setBytes, Memory.byte_setBytes_outside _ _ _ _ (by omega)]; simp
    | succ k =>
      have h' : k < rest.length := by simpa using h
      rw [Memory.setBytes, show i + (k + 1) = i + 1 + k by omega, ih _ _ _ h']
      simp

/-! ## The canonical form -/

theorem risingFrom_mono {lo lo' : Nat} {cs : List Host.Cell} (hle : lo' ≤ lo) (h : risingFrom lo cs = true) :
    risingFrom lo' cs = true := by
  cases cs with
  | nil => rfl
  | cons c rest =>
    simp only [risingFrom, Bool.and_eq_true, decide_eq_true_eq] at h ⊢
    exact ⟨by omega, h.2⟩

theorem risingFrom_putCell {lo i : Nat} {cs : List Host.Cell} {b : Byte} (hi : lo ≤ i)
    (h : risingFrom lo cs = true) : risingFrom lo (putCell cs i b) = true := by
  induction cs generalizing lo with
  | nil => simp [putCell, risingFrom, hi]
  | cons c rest ih =>
    obtain ⟨k, x⟩ := c
    simp only [risingFrom, Bool.and_eq_true, decide_eq_true_eq] at h
    by_cases hlt : i < k
    · simp only [putCell, hlt, if_true, risingFrom, Bool.and_eq_true, decide_eq_true_eq]
      exact ⟨hi, by omega, h.2⟩
    · by_cases heq : i = k
      · subst heq; simp [putCell, risingFrom, hi, h.2]
      · simp only [putCell, hlt, heq, if_false, risingFrom, Bool.and_eq_true, decide_eq_true_eq]
        exact ⟨h.1, ih (by omega) h.2⟩

theorem all_putCell {i : Nat} {cs : List Host.Cell} {b : Byte} {p : Host.Cell → Bool} (hb : p (i, b) = true)
    (h : cs.all p = true) : (putCell cs i b).all p = true := by
  induction cs with
  | nil => simp [putCell, hb]
  | cons c rest ih =>
    obtain ⟨k, x⟩ := c
    simp only [List.all_cons, Bool.and_eq_true] at h
    by_cases hlt : i < k
    · simp only [putCell, hlt, if_true, List.all_cons, Bool.and_eq_true]; exact ⟨hb, h.1, h.2⟩
    · by_cases heq : i = k
      · simp only [putCell, heq, if_true, List.all_cons, Bool.and_eq_true, lt_irrefl, if_false]
        exact ⟨by rw [← heq]; exact hb, h.2⟩
      · simp only [putCell, hlt, heq, if_false, List.all_cons, Bool.and_eq_true]; exact ⟨h.1, ih h.2⟩

/-- Storing a byte inside the window keeps the canonical form. -/
theorem Memory.wf_setByte {m : Memory} {i : Nat} {b : Byte} (hi : i < 22) (h : m.wf = true) :
    (m.setByte i b).wf = true := by
  simp only [Memory.wf, Memory.setByte, Bool.and_eq_true] at h ⊢
  exact ⟨risingFrom_putCell (Nat.zero_le i) h.1, all_putCell (decide_eq_true hi) h.2⟩

/-- Storing bytes inside the window keeps the canonical form. -/
theorem Memory.wf_setBytes {m : Memory} {i : Nat} {bs : List Byte} (hi : i + bs.length ≤ 22) (h : m.wf = true) :
    (m.setBytes i bs).wf = true := by
  induction bs generalizing m i with
  | nil => exact h
  | cons b rest ih =>
    simp only [List.length_cons] at hi
    exact ih (by omega) (Memory.wf_setByte (by omega) h)

/-- The marshal store keeps the canonical form. -/
theorem Memory.wf_memWrite {m : Memory} {addr n : Nat} {v : BitVec (8 * n)} (ha : addr + n ≤ 22) (h : m.wf = true) :
    (m.memWrite addr n v).wf = true :=
  Memory.wf_setBytes (by simpa using ha) h

/-- Writing an optional identifier at a cursor with room for it keeps the canonical form. -/
theorem wf_putId {m : Memory} {id : Option NodeId} {pos : Nat} (hp : pos + 8 ≤ 22) (h : m.wf = true) :
    (putId m id pos).1.wf = true := by
  cases id with
  | none => exact h
  | some v => exact Memory.wf_memWrite hp h

theorem putId_snd (m : Memory) (id : Option NodeId) (pos : Nat) : (putId m id pos).2 = pos + 8 * id.isSome.toNat := by
  cases id <;> rfl

/-- Writing a header keeps the canonical form. -/
theorem wf_putHeader {v : Version} {hd : Header} {m : Memory} (h : m.wf = true) : (putHeader v hd m).1.wf = true := by
  have h16 : (m.write16 Config.wordOff (encWord v hd.src.isSome hd.dst.isSome)).wf = true :=
    Memory.wf_memWrite (by decide) h
  have h32 := Memory.wf_memWrite (addr := Config.msgIdOff) (n := 4) (v := hd.msgId) (by decide) h16
  simp only [putHeader]
  refine wf_putId ?_ (wf_putId (by decide) h32)
  rw [putId_snd]
  cases hd.src <;> simp [Config.optOff]

/-- R99: the cursor ends at the size of the header. -/
theorem putHeader_snd (v : Version) (hd : Header) (m : Memory) :
    (putHeader v hd m).2 = encodedSize hd.src.isSome hd.dst.isSome := by
  simp only [putHeader, putId_snd, encodedSize, Config.optOff, Config.fixedBytes, Config.nodeIdBytes]

/-- Nothing listed is canonical, whatever the reset it dates from. -/
theorem Memory.wf_empty (e : Nat) : (Memory.mk [] e).wf = true := rfl

/-! ## The header word -/

theorem toNat_appendByte (x y : Byte) : (x ++ y).toNat = 256 * x.toNat + y.toNat := by
  rw [BitVec.toNat_append, ← Nat.shiftLeft_add_eq_or_of_lt y.isLt, Nat.shiftLeft_eq]
  omega

/-- R38: the word of two bytes, low byte first. -/
theorem Memory.read16_eq (m : Memory) (a : Nat) : m.read16 a = m.byte (a + 1) ++ m.byte a := by
  apply BitVec.eq_of_toNat_eq
  have h0 := (m.byte a).isLt
  have h1 := (m.byte (a + 1)).isLt
  have happ := toNat_appendByte (m.byte (a + 1)) (m.byte a)
  simp [Memory.read16, Memory.memRead, List.range, List.range.loop, BitVec.toNat_add, BitVec.toNat_shiftLeft,
    Nat.shiftLeft_eq]
  omega

end Sys2Proof.Machine
end

