-- ==== Sys2Proof/Laws/State.lean ====
section
/-! SUPPORT. One lemma for each field and each update of State, so that no later proof unfolds a record update. -/

namespace Sys2Proof.Machine

variable (s : State)

@[simp] theorem State.withLen_version (v : Length) : (s.withLen v).version = s.version := rfl
@[simp] theorem State.withLen_len (v : Length) : (s.withLen v).len = v := rfl
@[simp] theorem State.withLen_msgId (v : Length) : (s.withLen v).msgId = s.msgId := rfl
@[simp] theorem State.withLen_present (v : Length) : (s.withLen v).present = s.present := rfl
@[simp] theorem State.withLen_srcId (v : Length) : (s.withLen v).srcId = s.srcId := rfl
@[simp] theorem State.withLen_dstId (v : Length) : (s.withLen v).dstId = s.dstId := rfl
@[simp] theorem State.withLen_status (v : Length) : (s.withLen v).status = s.status := rfl
@[simp] theorem State.withLen_result (v : Length) : (s.withLen v).result = s.result := rfl
@[simp] theorem State.withLen_busyOp (v : Length) : (s.withLen v).busyOp = s.busyOp := rfl
@[simp] theorem State.withLen_buf (v : Length) : (s.withLen v).buf = s.buf := rfl
@[simp] theorem State.withLen_agenda (v : Length) : (s.withLen v).agenda = s.agenda := rfl
@[simp] theorem State.withLen_readings (v : Length) : (s.withLen v).readings = s.readings := rfl
@[simp] theorem State.withLen_draws (v : Length) : (s.withLen v).draws = s.draws := rfl

@[simp] theorem State.withHdr_version (m : MessageId) (p : BitVec 2) (a b : NodeId) : (s.withHdr m p a b).version = s.version := rfl
@[simp] theorem State.withHdr_len (m : MessageId) (p : BitVec 2) (a b : NodeId) : (s.withHdr m p a b).len = s.len := rfl
@[simp] theorem State.withHdr_msgId (m : MessageId) (p : BitVec 2) (a b : NodeId) : (s.withHdr m p a b).msgId = m := rfl
@[simp] theorem State.withHdr_present (m : MessageId) (p : BitVec 2) (a b : NodeId) : (s.withHdr m p a b).present = p := rfl
@[simp] theorem State.withHdr_srcId (m : MessageId) (p : BitVec 2) (a b : NodeId) : (s.withHdr m p a b).srcId = a := rfl
@[simp] theorem State.withHdr_dstId (m : MessageId) (p : BitVec 2) (a b : NodeId) : (s.withHdr m p a b).dstId = b := rfl
@[simp] theorem State.withHdr_status (m : MessageId) (p : BitVec 2) (a b : NodeId) : (s.withHdr m p a b).status = s.status := rfl
@[simp] theorem State.withHdr_result (m : MessageId) (p : BitVec 2) (a b : NodeId) : (s.withHdr m p a b).result = s.result := rfl
@[simp] theorem State.withHdr_busyOp (m : MessageId) (p : BitVec 2) (a b : NodeId) : (s.withHdr m p a b).busyOp = s.busyOp := rfl
@[simp] theorem State.withHdr_buf (m : MessageId) (p : BitVec 2) (a b : NodeId) : (s.withHdr m p a b).buf = s.buf := rfl
@[simp] theorem State.withHdr_agenda (m : MessageId) (p : BitVec 2) (a b : NodeId) : (s.withHdr m p a b).agenda = s.agenda := rfl
@[simp] theorem State.withHdr_readings (m : MessageId) (p : BitVec 2) (a b : NodeId) : (s.withHdr m p a b).readings = s.readings := rfl
@[simp] theorem State.withHdr_draws (m : MessageId) (p : BitVec 2) (a b : NodeId) : (s.withHdr m p a b).draws = s.draws := rfl

@[simp] theorem State.withOutcome_version (st : Status) (r : BitVec 5) : (s.withOutcome st r).version = s.version := rfl
@[simp] theorem State.withOutcome_len (st : Status) (r : BitVec 5) : (s.withOutcome st r).len = s.len := rfl
@[simp] theorem State.withOutcome_msgId (st : Status) (r : BitVec 5) : (s.withOutcome st r).msgId = s.msgId := rfl
@[simp] theorem State.withOutcome_present (st : Status) (r : BitVec 5) : (s.withOutcome st r).present = s.present := rfl
@[simp] theorem State.withOutcome_srcId (st : Status) (r : BitVec 5) : (s.withOutcome st r).srcId = s.srcId := rfl
@[simp] theorem State.withOutcome_dstId (st : Status) (r : BitVec 5) : (s.withOutcome st r).dstId = s.dstId := rfl
@[simp] theorem State.withOutcome_status (st : Status) (r : BitVec 5) : (s.withOutcome st r).status = st := rfl
@[simp] theorem State.withOutcome_result (st : Status) (r : BitVec 5) : (s.withOutcome st r).result = r := rfl
@[simp] theorem State.withOutcome_busyOp (st : Status) (r : BitVec 5) : (s.withOutcome st r).busyOp = s.busyOp := rfl
@[simp] theorem State.withOutcome_buf (st : Status) (r : BitVec 5) : (s.withOutcome st r).buf = s.buf := rfl
@[simp] theorem State.withOutcome_agenda (st : Status) (r : BitVec 5) : (s.withOutcome st r).agenda = s.agenda := rfl
@[simp] theorem State.withOutcome_readings (st : Status) (r : BitVec 5) : (s.withOutcome st r).readings = s.readings := rfl
@[simp] theorem State.withOutcome_draws (st : Status) (r : BitVec 5) : (s.withOutcome st r).draws = s.draws := rfl

@[simp] theorem State.withBusyOp_version (op : Option OpCode) : (s.withBusyOp op).version = s.version := rfl
@[simp] theorem State.withBusyOp_len (op : Option OpCode) : (s.withBusyOp op).len = s.len := rfl
@[simp] theorem State.withBusyOp_msgId (op : Option OpCode) : (s.withBusyOp op).msgId = s.msgId := rfl
@[simp] theorem State.withBusyOp_present (op : Option OpCode) : (s.withBusyOp op).present = s.present := rfl
@[simp] theorem State.withBusyOp_srcId (op : Option OpCode) : (s.withBusyOp op).srcId = s.srcId := rfl
@[simp] theorem State.withBusyOp_dstId (op : Option OpCode) : (s.withBusyOp op).dstId = s.dstId := rfl
@[simp] theorem State.withBusyOp_status (op : Option OpCode) : (s.withBusyOp op).status = s.status := rfl
@[simp] theorem State.withBusyOp_result (op : Option OpCode) : (s.withBusyOp op).result = s.result := rfl
@[simp] theorem State.withBusyOp_busyOp (op : Option OpCode) : (s.withBusyOp op).busyOp = op := rfl
@[simp] theorem State.withBusyOp_buf (op : Option OpCode) : (s.withBusyOp op).buf = s.buf := rfl
@[simp] theorem State.withBusyOp_agenda (op : Option OpCode) : (s.withBusyOp op).agenda = s.agenda := rfl
@[simp] theorem State.withBusyOp_readings (op : Option OpCode) : (s.withBusyOp op).readings = s.readings := rfl
@[simp] theorem State.withBusyOp_draws (op : Option OpCode) : (s.withBusyOp op).draws = s.draws := rfl

@[simp] theorem State.withBuf_version (m : Memory) : (s.withBuf m).version = s.version := rfl
@[simp] theorem State.withBuf_len (m : Memory) : (s.withBuf m).len = s.len := rfl
@[simp] theorem State.withBuf_msgId (m : Memory) : (s.withBuf m).msgId = s.msgId := rfl
@[simp] theorem State.withBuf_present (m : Memory) : (s.withBuf m).present = s.present := rfl
@[simp] theorem State.withBuf_srcId (m : Memory) : (s.withBuf m).srcId = s.srcId := rfl
@[simp] theorem State.withBuf_dstId (m : Memory) : (s.withBuf m).dstId = s.dstId := rfl
@[simp] theorem State.withBuf_status (m : Memory) : (s.withBuf m).status = s.status := rfl
@[simp] theorem State.withBuf_result (m : Memory) : (s.withBuf m).result = s.result := rfl
@[simp] theorem State.withBuf_busyOp (m : Memory) : (s.withBuf m).busyOp = s.busyOp := rfl
@[simp] theorem State.withBuf_buf (m : Memory) : (s.withBuf m).buf = m := rfl
@[simp] theorem State.withBuf_agenda (m : Memory) : (s.withBuf m).agenda = s.agenda := rfl
@[simp] theorem State.withBuf_readings (m : Memory) : (s.withBuf m).readings = s.readings := rfl
@[simp] theorem State.withBuf_draws (m : Memory) : (s.withBuf m).draws = s.draws := rfl

@[simp] theorem State.withAgenda_version (as : List HostAction) : (s.withAgenda as).version = s.version := rfl
@[simp] theorem State.withAgenda_len (as : List HostAction) : (s.withAgenda as).len = s.len := rfl
@[simp] theorem State.withAgenda_msgId (as : List HostAction) : (s.withAgenda as).msgId = s.msgId := rfl
@[simp] theorem State.withAgenda_present (as : List HostAction) : (s.withAgenda as).present = s.present := rfl
@[simp] theorem State.withAgenda_srcId (as : List HostAction) : (s.withAgenda as).srcId = s.srcId := rfl
@[simp] theorem State.withAgenda_dstId (as : List HostAction) : (s.withAgenda as).dstId = s.dstId := rfl
@[simp] theorem State.withAgenda_status (as : List HostAction) : (s.withAgenda as).status = s.status := rfl
@[simp] theorem State.withAgenda_result (as : List HostAction) : (s.withAgenda as).result = s.result := rfl
@[simp] theorem State.withAgenda_busyOp (as : List HostAction) : (s.withAgenda as).busyOp = s.busyOp := rfl
@[simp] theorem State.withAgenda_buf (as : List HostAction) : (s.withAgenda as).buf = s.buf := rfl
@[simp] theorem State.withAgenda_agenda (as : List HostAction) : (s.withAgenda as).agenda = as := rfl
@[simp] theorem State.withAgenda_readings (as : List HostAction) : (s.withAgenda as).readings = s.readings := rfl
@[simp] theorem State.withAgenda_draws (as : List HostAction) : (s.withAgenda as).draws = s.draws := rfl

@[simp] theorem State.withReading_version (r : Reading) : (s.withReading r).version = s.version := rfl
@[simp] theorem State.withReading_len (r : Reading) : (s.withReading r).len = s.len := rfl
@[simp] theorem State.withReading_msgId (r : Reading) : (s.withReading r).msgId = s.msgId := rfl
@[simp] theorem State.withReading_present (r : Reading) : (s.withReading r).present = s.present := rfl
@[simp] theorem State.withReading_srcId (r : Reading) : (s.withReading r).srcId = s.srcId := rfl
@[simp] theorem State.withReading_dstId (r : Reading) : (s.withReading r).dstId = s.dstId := rfl
@[simp] theorem State.withReading_status (r : Reading) : (s.withReading r).status = s.status := rfl
@[simp] theorem State.withReading_result (r : Reading) : (s.withReading r).result = s.result := rfl
@[simp] theorem State.withReading_busyOp (r : Reading) : (s.withReading r).busyOp = s.busyOp := rfl
@[simp] theorem State.withReading_buf (r : Reading) : (s.withReading r).buf = s.buf := rfl
@[simp] theorem State.withReading_agenda (r : Reading) : (s.withReading r).agenda = s.agenda := rfl
@[simp] theorem State.withReading_readings (r : Reading) : (s.withReading r).readings = r :: s.readings := rfl
@[simp] theorem State.withReading_draws (r : Reading) : (s.withReading r).draws = s.draws := rfl

@[simp] theorem State.drawn_version : s.drawn.version = s.version := rfl
@[simp] theorem State.drawn_len : s.drawn.len = s.len := rfl
@[simp] theorem State.drawn_msgId : s.drawn.msgId = s.msgId := rfl
@[simp] theorem State.drawn_present : s.drawn.present = s.present := rfl
@[simp] theorem State.drawn_srcId : s.drawn.srcId = s.srcId := rfl
@[simp] theorem State.drawn_dstId : s.drawn.dstId = s.dstId := rfl
@[simp] theorem State.drawn_status : s.drawn.status = s.status := rfl
@[simp] theorem State.drawn_result : s.drawn.result = s.result := rfl
@[simp] theorem State.drawn_busyOp : s.drawn.busyOp = s.busyOp := rfl
@[simp] theorem State.drawn_buf : s.drawn.buf = s.buf := rfl
@[simp] theorem State.drawn_agenda : s.drawn.agenda = s.agenda := rfl
@[simp] theorem State.drawn_readings : s.drawn.readings = s.readings := rfl
@[simp] theorem State.drawn_draws : s.drawn.draws = s.draws + 1 := rfl

@[simp] theorem State.finish_version (st : Status) (r : Nat) : (s.finish st r).version = s.version := rfl
@[simp] theorem State.finish_len (st : Status) (r : Nat) : (s.finish st r).len = s.len := rfl
@[simp] theorem State.finish_msgId (st : Status) (r : Nat) : (s.finish st r).msgId = s.msgId := rfl
@[simp] theorem State.finish_present (st : Status) (r : Nat) : (s.finish st r).present = s.present := rfl
@[simp] theorem State.finish_srcId (st : Status) (r : Nat) : (s.finish st r).srcId = s.srcId := rfl
@[simp] theorem State.finish_dstId (st : Status) (r : Nat) : (s.finish st r).dstId = s.dstId := rfl
@[simp] theorem State.finish_status (st : Status) (r : Nat) : (s.finish st r).status = st := rfl
@[simp] theorem State.finish_result (st : Status) (r : Nat) : (s.finish st r).result = BitVec.ofNat 5 r := rfl
@[simp] theorem State.finish_busyOp (st : Status) (r : Nat) : (s.finish st r).busyOp = none := rfl
@[simp] theorem State.finish_buf (st : Status) (r : Nat) : (s.finish st r).buf = s.buf := rfl
@[simp] theorem State.finish_agenda (st : Status) (r : Nat) : (s.finish st r).agenda = s.agenda := rfl
@[simp] theorem State.finish_readings (st : Status) (r : Nat) : (s.finish st r).readings = s.readings := rfl
@[simp] theorem State.finish_draws (st : Status) (r : Nat) : (s.finish st r).draws = s.draws := rfl

@[simp] theorem State.raise_version (k : Status) : (s.raise k).version = s.version := rfl
@[simp] theorem State.raise_len (k : Status) : (s.raise k).len = s.len := rfl
@[simp] theorem State.raise_msgId (k : Status) : (s.raise k).msgId = s.msgId := rfl
@[simp] theorem State.raise_present (k : Status) : (s.raise k).present = s.present := rfl
@[simp] theorem State.raise_srcId (k : Status) : (s.raise k).srcId = s.srcId := rfl
@[simp] theorem State.raise_dstId (k : Status) : (s.raise k).dstId = s.dstId := rfl
@[simp] theorem State.raise_status (k : Status) : (s.raise k).status = k := rfl
@[simp] theorem State.raise_result (k : Status) : (s.raise k).result = 0 := rfl
@[simp] theorem State.raise_busyOp (k : Status) : (s.raise k).busyOp = none := rfl
@[simp] theorem State.raise_buf (k : Status) : (s.raise k).buf = s.buf := rfl
@[simp] theorem State.raise_agenda (k : Status) : (s.raise k).agenda = s.agenda := rfl
@[simp] theorem State.raise_readings (k : Status) : (s.raise k).readings = s.readings := rfl
@[simp] theorem State.raise_draws (k : Status) : (s.raise k).draws = s.draws := rfl

@[simp] theorem State.freeHdr_version : s.freeHdr.version = s.version := rfl
@[simp] theorem State.freeHdr_len : s.freeHdr.len = s.len := rfl
@[simp] theorem State.freeHdr_msgId : s.freeHdr.msgId = Config.freeMsgId s.draws := rfl
@[simp] theorem State.freeHdr_present : s.freeHdr.present = Config.freePresent s.draws := rfl
@[simp] theorem State.freeHdr_srcId : s.freeHdr.srcId = Config.freeSrcId s.draws := rfl
@[simp] theorem State.freeHdr_dstId : s.freeHdr.dstId = Config.freeDstId s.draws := rfl
@[simp] theorem State.freeHdr_status : s.freeHdr.status = s.status := rfl
@[simp] theorem State.freeHdr_result : s.freeHdr.result = s.result := rfl
@[simp] theorem State.freeHdr_busyOp : s.freeHdr.busyOp = s.busyOp := rfl
@[simp] theorem State.freeHdr_buf : s.freeHdr.buf = s.buf := rfl
@[simp] theorem State.freeHdr_agenda : s.freeHdr.agenda = s.agenda := rfl
@[simp] theorem State.freeHdr_readings : s.freeHdr.readings = s.readings := rfl
@[simp] theorem State.freeHdr_draws : s.freeHdr.draws = s.draws + 1 := rfl

@[simp] theorem State.loadHdr_version (h : Header) : (s.loadHdr h).version = s.version := rfl
@[simp] theorem State.loadHdr_len (h : Header) : (s.loadHdr h).len = s.len := rfl
@[simp] theorem State.loadHdr_msgId (h : Header) : (s.loadHdr h).msgId = h.msgId := rfl
@[simp] theorem State.loadHdr_present (h : Header) : (s.loadHdr h).present = presentOf h.src.isSome h.dst.isSome := rfl
@[simp] theorem State.loadHdr_srcId (h : Header) : (s.loadHdr h).srcId = h.src.getD (Config.freeSrcId s.draws) := rfl
@[simp] theorem State.loadHdr_dstId (h : Header) : (s.loadHdr h).dstId = h.dst.getD (Config.freeDstId s.draws) := rfl
@[simp] theorem State.loadHdr_status (h : Header) : (s.loadHdr h).status = s.status := rfl
@[simp] theorem State.loadHdr_result (h : Header) : (s.loadHdr h).result = s.result := rfl
@[simp] theorem State.loadHdr_busyOp (h : Header) : (s.loadHdr h).busyOp = s.busyOp := rfl
@[simp] theorem State.loadHdr_buf (h : Header) : (s.loadHdr h).buf = s.buf := rfl
@[simp] theorem State.loadHdr_agenda (h : Header) : (s.loadHdr h).agenda = s.agenda := rfl
@[simp] theorem State.loadHdr_readings (h : Header) : (s.loadHdr h).readings = s.readings := rfl
@[simp] theorem State.loadHdr_draws (h : Header) : (s.loadHdr h).draws = s.draws + 1 := rfl

@[simp] theorem State.applyReset_version : s.applyReset.version = s.version := rfl
@[simp] theorem State.applyReset_len : s.applyReset.len = 0 := rfl
@[simp] theorem State.applyReset_msgId : s.applyReset.msgId = Config.freeMsgId s.draws := rfl
@[simp] theorem State.applyReset_present : s.applyReset.present = 0 := rfl
@[simp] theorem State.applyReset_srcId : s.applyReset.srcId = Config.freeSrcId s.draws := rfl
@[simp] theorem State.applyReset_dstId : s.applyReset.dstId = Config.freeDstId s.draws := rfl
@[simp] theorem State.applyReset_status : s.applyReset.status = .ok := rfl
@[simp] theorem State.applyReset_result : s.applyReset.result = 0 := rfl
@[simp] theorem State.applyReset_busyOp : s.applyReset.busyOp = none := rfl
@[simp] theorem State.applyReset_buf : s.applyReset.buf = Memory.mk [] s.draws := rfl
@[simp] theorem State.applyReset_agenda : s.applyReset.agenda = s.agenda := rfl
@[simp] theorem State.applyReset_readings : s.applyReset.readings = s.readings := rfl
@[simp] theorem State.applyReset_draws : s.applyReset.draws = s.draws + 1 := rfl

end Sys2Proof.Machine
end

