-- ==== Sys2Proof/Laws/Operands.lean ====
section
/-! SUPPORT. What the shared operations of the meanings can do, once for each, so that no proof about an instruction
unfolds them again. -/

namespace Sys2Proof.Machine

@[simp] theorem State.withBusyOp_busy (s : State) (op : Option OpCode) : (s.withBusyOp op).busy = op.isSome := rfl
@[simp] theorem State.finish_busy (s : State) (st : Status) (r : Nat) : (s.finish st r).busy = false := rfl
@[simp] theorem State.raise_busy (s : State) (k : Status) : (s.raise k).busy = false := rfl
@[simp] theorem State.applyReset_busy (s : State) : s.applyReset.busy = false := rfl

@[simp] theorem presentOf_src (a b : Bool) : (presentOf a b).getLsbD 1 = a := by cases a <;> cases b <;> rfl
@[simp] theorem presentOf_dst (a b : Bool) : (presentOf a b).getLsbD 0 = b := by cases a <;> cases b <;> rfl
@[simp] theorem presentOf_getElem_src (a b : Bool) : (presentOf a b)[1] = a := by cases a <;> cases b <;> rfl
@[simp] theorem presentOf_getElem_dst (a b : Bool) : (presentOf a b)[0] = b := by cases a <;> cases b <;> rfl

/-- R74: the four sizes. -/
theorem encodedSize_cases (a b : Bool) :
    encodedSize a b = 6 ∨ encodedSize a b = 14 ∨ encodedSize a b = 22 := by cases a <;> cases b <;> decide

theorem encodedSize_ge (a b : Bool) : 6 ≤ encodedSize a b := by cases a <;> cases b <;> decide

theorem encodedSize_le (a b : Bool) : encodedSize a b ≤ 22 := by cases a <;> cases b <;> decide

theorem toNat_ofNat_encodedSize (a b : Bool) : (BitVec.ofNat 5 (encodedSize a b)).toNat = encodedSize a b := by
  cases a <;> cases b <;> decide

/-- The optional identifiers of the header in `HDR` are present exactly as the valid bits say (R15). -/
@[simp] theorem State.header_src_isSome (s : State) : s.header.src.isSome = s.srcValid := by
  simp only [State.header]; cases s.srcValid <;> rfl
@[simp] theorem State.header_dst_isSome (s : State) : s.header.dst.isSome = s.dstValid := by
  simp only [State.header]; cases s.dstValid <;> rfl

theorem State.required_eq (s : State) : s.required = encodedSize s.header.src.isSome s.header.dst.isSome := by
  rw [State.header_src_isSome, State.header_dst_isSome]; rfl

/-- R15, R87: after `HDR` has taken a decoded header, it stands for that header. -/
@[simp] theorem State.loadHdr_header (s : State) (h : Header) : (s.loadHdr h).header = h := by
  obtain ⟨m, a, b⟩ := h
  cases a <;> cases b <;> simp [State.header, State.srcValid, State.dstValid]

@[simp] theorem State.finish_header (s : State) (st : Status) (r : Nat) : (s.finish st r).header = s.header := rfl

/-- R85: the identifiers under STRICT, once the fixed part is there: they fit exactly when the whole header does, the
source identifier stands at 6 and the destination identifier after it. -/
theorem parseFields_strict (m : Memory) (len : Nat) (a b : Bool) (h6 : 6 ≤ len) :
    parseFields .strict m len a b =
      if len < encodedSize a b then .error .invalidArgument
      else .ok ({ msgId := m.read32 2, src := if a then some (m.read64 6) else none,
                  dst := if b then some (m.read64 (if a then 14 else 6)) else none }, encodedSize a b) := by
  cases a <;> cases b <;>
    simp only [parseFields, takeId, dstRemaining, encodedSize, Config.fixedBytes, Config.nodeIdBytes, Config.optOff,
      Config.msgIdOff, Bool.toNat_true, Bool.toNat_false, if_true, Bool.false_eq_true, if_false] <;>
    norm_num
  · omega
  · by_cases h : len < 14
    · have : len - 6 < 8 := by omega
      simp [h, this]
    · have : ¬ len - 6 < 8 := by omega
      simp [h, this]
  · by_cases h : len < 14
    · have : len - 6 < 8 := by omega
      simp [h, this]
    · have : ¬ len - 6 < 8 := by omega
      simp [h, this]
  · by_cases h : len < 14
    · have h1 : len - 6 < 8 := by omega
      have h2 : len < 22 := by omega
      simp [h1, h2]
    · have h1 : ¬ len - 6 < 8 := by omega
      by_cases h2 : len < 22
      · have h3 : len - 14 < 8 := by omega
        simp [h1, h2, h3]
      · have h3 : ¬ len - 14 < 8 := by omega
        simp [h1, h2, h3]

/-- R77: everything a decode of a header word can do, in step order (R112). -/
theorem parseHeader_strict (v : Version) (m : Memory) (len : Nat) (ver : Version) (a b : Bool) :
    parseHeader Config.dstBoundPolicy v m len ver a b =
      if len < 6 then .error .invalidArgument
      else if ver ≠ v then .error .versionMismatch
      else if len < encodedSize a b then .error .invalidArgument
      else .ok ({ msgId := m.read32 2, src := if a then some (m.read64 6) else none,
                  dst := if b then some (m.read64 (if a then 14 else 6)) else none }, encodedSize a b) := by
  by_cases h6 : len < 6
  · simp [parseHeader, Config.fixedBytes, h6]
  · simp only [parseHeader, Config.fixedBytes, h6, if_false, Config.dstBoundPolicy,
      parseFields_strict m len a b (by omega)]

/-- R58, R77: the header in the bytes of a buffer whose presence flags are these. -/
def bufHeader (m : Memory) (a b : Bool) : Header where
  msgId := m.read32 2
  src := if a then some (m.read64 6) else none
  dst := if b then some (m.read64 (if a then 14 else 6)) else none

@[simp] theorem bufHeader_src_isSome (m : Memory) (a b : Bool) : (bufHeader m a b).src.isSome = a := by cases a <;> rfl
@[simp] theorem bufHeader_dst_isSome (m : Memory) (a b : Bool) : (bufHeader m a b).dst.isSome = b := by cases b <;> rfl

/-- R77, R112: everything the run of a header word can do, in step order. -/
theorem State.runHeader_eq (s : State) (v : Version) (a b : Bool) :
    s.runHeader v a b =
      if s.len.toNat < 6 then s.freeHdr.raise .invalidArgument
      else if v ≠ s.version then s.freeHdr.raise .versionMismatch
      else if s.len.toNat < encodedSize a b then s.freeHdr.raise .invalidArgument
      else (s.loadHdr (bufHeader s.buf a b)).finish .ok (encodedSize a b) := by
  rw [State.runHeader, parseHeader_strict]
  by_cases h6 : s.len.toNat < 6
  · rw [if_pos h6, if_pos h6]; rfl
  rw [if_neg h6, if_neg h6]
  by_cases hv : v ≠ s.version
  · rw [if_pos hv, if_pos hv]; rfl
  rw [if_neg hv, if_neg hv]
  by_cases hl : s.len.toNat < encodedSize a b
  · rw [if_pos hl, if_pos hl]; rfl
  · rw [if_neg hl, if_neg hl]; rfl

/-- What `finishDec` leaves: the outcome registers on both sides, and everything outside `HDR`, `STATUS`, `RESULT`, `BUSY`
and the draw counter (R89). -/
theorem State.finishDec_keeps (s : State) (r : Except Status (Header × Nat)) :
    (s.finishDec r).version = s.version ∧ (s.finishDec r).len = s.len ∧ (s.finishDec r).buf = s.buf ∧
      (s.finishDec r).agenda = s.agenda ∧ (s.finishDec r).readings = s.readings ∧ (s.finishDec r).busy = false := by
  cases r with
  | ok p => exact ⟨rfl, rfl, rfl, rfl, rfl, rfl⟩
  | error k => exact ⟨rfl, rfl, rfl, rfl, rfl, rfl⟩

/-- A DEC is the run of the header word it fetches, at every length: below 6 bytes both end at the length gate. -/
theorem execDec_eq (s : State) :
    execDec s = .next (s.runHeader (wordVersion (s.buf.read16 0)) (wordSrc (s.buf.read16 0)) (wordDst (s.buf.read16 0))) := by
  by_cases h : s.len.toNat < 6
  · simp [execDec, State.runHeader, parseHeader, Config.fixedBytes, h, State.finishDec]
  · simp [execDec, Config.fixedBytes, h, Config.wordOff]

end Sys2Proof.Machine
end

