-- ==== Sys2Proof/Laws/PerInstr.lean ====
section
/-! SUPPORT. Statements about every instruction as syntax, one lemma for each constructor. -/

namespace Sys2Proof.Laws.EncodingLength

/-- The encoding of an instruction has the length of its format: one byte for a command (R53), two for a header word
(R57). -/
def Statement (i : Instr) : Prop :=
  (encode i).length = match i.format with
    | .cmd2 => 1
    | .hdrWord16 => 2

theorem size : Statement .size := rfl
theorem dec : Statement .dec := rfl
theorem enc : Statement .enc := rfl
theorem op3 : Statement .op3 := rfl
theorem hdrNone (version : Version) (flags : BitVec 2) (reserved : Byte) : Statement (.hdrNone version flags reserved) := rfl
theorem hdrDst (version : Version) (flags : BitVec 2) (reserved : Byte) : Statement (.hdrDst version flags reserved) := rfl
theorem hdrSrc (version : Version) (flags : BitVec 2) (reserved : Byte) : Statement (.hdrSrc version flags reserved) := rfl
theorem hdrBoth (version : Version) (flags : BitVec 2) (reserved : Byte) : Statement (.hdrBoth version flags reserved) := rfl

end Sys2Proof.Laws.EncodingLength
end

