-- ==== Sys2Proof/Tests/Slice0.lean ====
section
/-! SUPPORT. The model's own tests: words written out from the spec's encodings, vectors of spec/95_test_vectors.md, and for
each statement with hypotheses a concrete state that meets them all. -/

namespace Sys2Proof.Tests

open Sys2Proof.Machine

/-! ## Small states -/

/-- `V = 1`, a buffer of `len` bytes that begins with these, everything else zero, nothing in progress. -/
def bufState (len : Nat) (bytes : List Byte) : State where
  version := 1
  len := BitVec.ofNat 16 len
  msgId := 0
  present := 0
  srcId := 0
  dstId := 0
  status := .ok
  result := 0
  busyOp := none
  buf := (Memory.mk [] 0).setBytes 0 bytes
  agenda := []
  readings := []
  draws := 7

/-- `V = 1`, capacity `len`, this header in the registers, `BUF` 22 bytes of `EE` (95_test_vectors.md section 5). -/
def hdrState (len : Nat) (msgId : MessageId) (present : BitVec 2) (srcId dstId : NodeId) : State :=
  (bufState len (List.replicate 22 0xEE#8)).withHdr msgId present srcId dstId

/-- A check of the next state of an outcome. -/
def nextIs (o : Host.Outcome State Fault Refusal) (p : State → Bool) : Bool :=
  match o with
  | .next t => p t
  | .fault _ => false
  | .refused _ => false

/-- `00 13 04 03 02 01 88 … 11 11 00 FF EE DD CC BB AA` (DV15). -/
def fullPacket : List Byte :=
  [0x00#8, 0x13#8, 0x04#8, 0x03#8, 0x02#8, 0x01#8, 0x88#8, 0x77#8, 0x66#8, 0x55#8, 0x44#8, 0x33#8, 0x22#8, 0x11#8,
   0x11#8, 0x00#8, 0xFF#8, 0xEE#8, 0xDD#8, 0xCC#8, 0xBB#8, 0xAA#8]

/-- `A5 1E 78 56 34 12 01 00 00 00 00 00 00 00` (DV20). -/
def looseSrcPacket : List Byte :=
  [0xA5#8, 0x1E#8, 0x78#8, 0x56#8, 0x34#8, 0x12#8, 0x01#8, 0x00#8, 0x00#8, 0x00#8, 0x00#8, 0x00#8, 0x00#8, 0x00#8]

/-! ## Decoding, one word for each row (R54, R57) -/

theorem test_decode_size : decode .cmd2 [0b00#8] = .ok (.size, []) := rfl
theorem test_decode_dec : decode .cmd2 [0b01#8] = .ok (.dec, []) := rfl
theorem test_decode_enc : decode .cmd2 [0b10#8] = .ok (.enc, []) := rfl
theorem test_decode_op3 : decode .cmd2 [0b11#8] = .ok (.op3, []) := rfl
/-- `0001 11 0 0 1111_1111` (DV18). -/
theorem test_decode_hdrNone : decode .hdrWord16 [0xFF#8, 0x1C#8] = .ok (.hdrNone 1#4 0b11#2 0xFF#8, []) := rfl
/-- `0001 00 0 1 0000_0000`. -/
theorem test_decode_hdrDst : decode .hdrWord16 [0x00#8, 0x11#8] = .ok (.hdrDst 1#4 0#2 0#8, []) := rfl
/-- `0001 11 1 0 1010_0101` (DV20). -/
theorem test_decode_hdrSrc : decode .hdrWord16 [0xA5#8, 0x1E#8] = .ok (.hdrSrc 1#4 0b11#2 0xA5#8, []) := rfl
/-- `1111 00 1 1 0000_0000` (DV7). -/
theorem test_decode_hdrBoth : decode .hdrWord16 [0x00#8, 0xF3#8] = .ok (.hdrBoth 15#4 0#2 0#8, []) := rfl
theorem test_reject_wide_command : decode .cmd2 [0b100#8] = .error (.commandTooWide 0b100#8) := rfl
theorem test_reject_cut_word : decode .hdrWord16 [0x00#8] = .error .headerWordCut := rfl
theorem test_reject_no_command : decode .cmd2 [] = .error .noCommand := rfl
theorem test_encode_hdrSrc : encode (.hdrSrc 1#4 0#2 0#8) = [0x00#8, 0x12#8] := by decide

/-! ## The smoke of WellFormed: an ill-formed term for each check -/

theorem test_reserved_flags_are_ill_formed : (Instr.hdrSrc 1#4 0b10#2 0#8).wellFormed = false := rfl
theorem test_reserved_byte_is_ill_formed : (Instr.hdrDst 1#4 0#2 0x80#8).wellFormed = false := rfl
theorem test_canonical_word_is_well_formed : (Instr.hdrBoth 1#4 0#2 0#8).wellFormed = true := rfl

/-! ## The instructions, one step each (95_test_vectors.md) -/

/-- SV5: the value registers and `LEN` do not matter. -/
theorem test_size_none : nextIs (exec .size (hdrState 0 0 0 (-1) (-1))) (fun t => t.result == 6 && t.status == .ok) = true := by decide
/-- SV3. -/
theorem test_size_src : nextIs (exec .size (hdrState 0 0 0b10 0 0)) (fun t => t.result == 14) = true := by decide

/-- DV15. -/
theorem test_dec_both : nextIs (exec .dec (bufState 22 fullPacket)) (fun t => t.status == .ok && t.result == 22 &&
    t.header == { msgId := 0x01020304, src := some 0x1122334455667788, dst := some 0xAABBCCDDEEFF0011 }) = true := by decide
/-- BV5: STRICT at 21. -/
theorem test_dec_strict_at_21 : nextIs (exec .dec (bufState 21 fullPacket)) (fun t => t.status == .invalidArgument && t.result == 0) = true := by decide

/-- EV3. -/
theorem test_enc_dst : nextIs (exec .enc (hdrState 14 0x01020304 0b01 0 0xAABBCCDDEEFF0011)) (fun t => t.result == 14 &&
    t.buf.bytes 0 15 == [0x00#8, 0x11#8, 0x04#8, 0x03#8, 0x02#8, 0x01#8, 0x11#8, 0x00#8, 0xFF#8, 0xEE#8, 0xDD#8, 0xCC#8, 0xBB#8, 0xAA#8, 0xEE#8]) = true := by decide
/-- EV11. -/
theorem test_enc_short : nextIs (exec .enc (hdrState 13 0x01020304 0b10 0x1122334455667788 0)) (fun t => t.status == .invalidArgument &&
    t.buf.bytes 0 22 == List.replicate 22 0xEE#8) = true := by decide

/-- XV1. -/
theorem test_op3 : nextIs (exec .op3 (hdrState 22 5 0b11 6 7)) (fun t => t.status == .illegalOp && t.result == 0 && t.msgId == 5) = true := by decide

/-- DV18. -/
theorem test_hdrNone : nextIs (exec (.hdrNone 1 0b11 0xFF) (bufState 6 [0xFF#8, 0x1C#8, 0x04#8, 0x03#8, 0x02#8, 0x01#8]))
    (fun t => t.result == 6 && t.header == { msgId := 0x01020304, src := none, dst := none }) = true := by decide
/-- DV21: present with value zero. -/
theorem test_hdrDst : nextIs (exec (.hdrDst 1 0 0) (bufState 14 [0x00#8, 0x11#8, 0xEF#8, 0xBE#8, 0xAD#8, 0xDE#8, 0#8, 0#8, 0#8, 0#8, 0#8, 0#8, 0#8, 0#8]))
    (fun t => t.result == 14 && t.header == { msgId := 0xDEADBEEF, src := none, dst := some 0 }) = true := by decide
/-- DV20. -/
theorem test_hdrSrc : nextIs (exec (.hdrSrc 1 0b11 0xA5) (bufState 14 looseSrcPacket))
    (fun t => t.result == 14 && t.header == { msgId := 0x12345678, src := some 1, dst := none }) = true := by decide
/-- DV7: the wrong version before the missing identifiers. -/
theorem test_hdrBoth : nextIs (exec (.hdrBoth 15 0 0) (bufState 6 [0x00#8, 0xF3#8])) (fun t => t.status == .versionMismatch) = true := by decide

/-! ## The primitives (95_test_vectors.md section 6) -/

/-- MV6. -/
theorem test_read64 : (bufState 22 (List.replicate 14 0#8 ++ [0xEF#8, 0xCD#8, 0xAB#8, 0x89#8, 0x67#8, 0x45#8, 0x23#8, 0x01#8])).buf.read64 14
    = 0x0123456789ABCDEF#64 := by decide
/-- MV8. -/
theorem test_write32 : ((Memory.mk [] 0).write32 2 0xDEADBEEF).bytes 2 4 = [0xEF#8, 0xBE#8, 0xAD#8, 0xDE#8] := by decide
/-- MV18: `V` is a parameter. -/
theorem test_encWord_v15 : encWord 15 true true = 0xF300#16 := by decide
/-- R12: the register numbers. -/
theorem test_register_numbers : (List.range 10).map Reg.ofNo = [some .version, some .len, some .msgId, some .present, some .srcId, some .dstId,
    some .status, some .result, some .busy, none] := by decide

/-! ## The host's port and fetching -/

theorem test_table_dec : decodeTableWord 8 1 = some .dec := by decide
theorem test_table_hdrSrc : decodeTableWord 16 0x1EA5 = some (.hdrSrc 1#4 0b11#2 0xA5#8) := by decide
/-- The first step after reset takes the command. -/
theorem test_fetch_size : nextIs (step (State.reset.withFetchWord 8 0)) (fun t => t.result == 6) = true := by decide
/-- The first step after reset runs a DEC that fetches the header word. -/
theorem test_fetch_hdrSrc : nextIs (step (State.reset.withFetchWord 16 0x1200)) (fun _ => true) = true := by decide
/-- DV9 with `LEN` as it was: the fetched word is the one stored. -/
theorem test_fetch_runs_the_word : nextIs (step ((bufState 6 []).withFetchWord 16 0x1200)) (fun t => t.status == .invalidArgument) = true := by decide
/-- R137 (b), R71: `SETSRC none` keeps the value register (P5 step 4). -/
theorem test_setSrc_none : nextIs (step ((hdrState 0 0 0b11 5 6).withAgenda [.setSrc none])) (fun t => t.present == 0b01 && t.srcId == 5) = true := by decide
theorem test_load_outside : (match step ((bufState 0 []).withAgenda [.load 22 [0#8]]) with
    | .fault (.noSuchByte 22) => true | _ => false) = true := by decide
theorem test_start_while_busy : (match step (((bufState 0 []).withBusyOp (some 1)).withAgenda [.start 0]) with
    | .refused .startWhileBusy => true | _ => false) = true := by decide

/-! ## Witnesses: states and operands that meet the hypotheses of a statement, all together -/

theorem witness_DecodeThenEncodeIsIdentity :
    ∃ i rest, decode .hdrWord16 [0xFF#8, 0xFB#8, 0x07#8] = .ok (i, rest) := ⟨_, _, rfl⟩
theorem witness_DecodeThenEncodeIsIdentity_command : ∃ i rest, decode .cmd2 [3#8, 0x07#8] = .ok (i, rest) := ⟨_, _, rfl⟩

theorem witness_marshal_ranges : ((2 = 2 ∨ 2 = 4 ∨ 2 = 8) ∧ 20 + 2 ≤ 22) ∧ ((4 = 2 ∨ 4 = 4 ∨ 4 = 8) ∧ 18 + 4 ≤ 22) ∧
    ((8 = 2 ∨ 8 = 4 ∨ 8 = 8) ∧ 14 + 8 ≤ 22) := by decide
theorem witness_MemReadIsTheLittleEndianSum_agree :
    ∀ k < 8, (bufState 0 fullPacket).buf.byte (14 + k) = ((bufState 0 fullPacket).buf.setByte 13 0).byte (14 + k) := by decide
theorem witness_MemWriteStoresExactlyItsBytes_outside : (13 < 14 ∨ 14 + 8 ≤ 13) ∧ (22 < 14 ∨ 14 + 8 ≤ 22) := by decide

theorem witness_SizeAgreesWithEncAndDec_none : (hdrState 6 0 0b00 0 0).srcValid = false ∧ (hdrState 6 0 0b00 0 0).dstValid = false := by decide
theorem witness_SizeAgreesWithEncAndDec_one : (hdrState 6 0 0b01 0 0).srcValid ≠ (hdrState 6 0 0b01 0 0).dstValid := by decide
theorem witness_SizeAgreesWithEncAndDec_both : (hdrState 6 0 0b11 0 0).srcValid = true ∧ (hdrState 6 0 0b11 0 0).dstValid = true := by decide
theorem witness_SizeAgreesWithEncAndDec_enc : ∃ u, exec .enc (hdrState 22 0 0b11 0 0) = .next u ∧ u.status = .ok := ⟨_, rfl, by decide⟩
theorem witness_SizeAgreesWithEncAndDec_dec : ∃ s, exec .dec (bufState 22 fullPacket) = .next s ∧ s.status = .ok := ⟨_, rfl, by decide⟩

theorem witness_DecLengthGateComesFirst_below : (bufState 5 [0x00#8, 0x23#8]).len.toNat < 6 := by decide
theorem witness_DecLengthGateComesFirst_six : let s := bufState 6 [0x00#8, 0x10#8]
    s.len.toNat = 6 ∧ wordVersion s.word = s.version ∧ wordSrc s.word = false ∧ wordDst s.word = false := by decide
theorem witness_DecVersionGateComesSecond_mismatch : let s := bufState 6 [0x00#8, 0x23#8]; let m := (bufState 0 [0x00#8, 0x23#8, 0x77#8]).buf
    6 ≤ s.len.toNat ∧ wordVersion s.word ≠ s.version ∧ m.byte 0 = s.buf.byte 0 ∧ m.byte 1 = s.buf.byte 1 := by decide
theorem witness_dec_succeeds : ∃ t, exec .dec (bufState 22 fullPacket) = .next t ∧ t.status = .ok := ⟨_, rfl, by decide⟩
theorem witness_DecSuccessFillsTheHeader : let s := bufState 22 fullPacket
    6 + 8 * (wordSrc s.word).toNat + 8 * (wordDst s.word).toNat ≤ s.len.toNat ∧ wordVersion s.word = s.version ∧
      wordSrc s.word = true ∧ wordDst s.word = true := by decide
theorem witness_DecFailureOutcome_length : (bufState 5 [0x00#8, 0x23#8]).len.toNat < 6 := by decide
theorem witness_DecFailureOutcome_version : let s := bufState 6 [0x00#8, 0x20#8]
    6 ≤ s.len.toNat ∧ wordVersion s.word ≠ s.version := by decide
theorem witness_DecFailureOutcome_short : let s := bufState 21 fullPacket
    6 ≤ s.len.toNat ∧ s.len.toNat < 6 + 8 * (wordSrc s.word).toNat + 8 * (wordDst s.word).toNat := by decide
theorem witness_DecLeavesUnspecifiedRegistersFree_failed : ∃ t, exec .dec (bufState 0 []) = .next t ∧ t.status ≠ .ok := ⟨_, rfl, by decide⟩
theorem witness_DecLeavesUnspecifiedRegistersFree_absent :
    ∃ t, exec .dec (bufState 6 [0x00#8, 0x10#8, 0#8, 0#8, 0#8, 0#8]) = .next t ∧ t.status = .ok ∧ t.srcValid = false ∧ t.dstValid = false :=
  ⟨_, rfl, by decide, by decide, by decide⟩
theorem witness_VersionMismatchExactlyWhen_others : ∃ t, (0b11#2 : OpCode) ≠ 0b01#2 ∧ exec (commandOf 0b11#2) (bufState 0 []) = .next t :=
  ⟨_, by decide, rfl⟩
theorem witness_DecDependsOnItsFootprintOnly : let s := bufState 6 [0x00#8, 0x10#8, 1#8, 2#8, 3#8, 4#8]
    let u := ((bufState 6 [0x00#8, 0x10#8, 1#8, 2#8, 3#8, 4#8, 0x99#8]).withHdr 1 1 1 1)
    u.version = s.version ∧ u.len = s.len ∧ u.draws = s.draws ∧
      (∀ a ∈ decFootprint s.version s.len.toNat s.buf, u.buf.byte a = s.buf.byte a) ∧ u.buf.byte 6 = 0x99#8 := by decide
theorem witness_DecOutcomeIsAFunctionOfItsFootprint : let s := bufState 14 looseSrcPacket
    let u := ((bufState 14 (looseSrcPacket ++ [0x99#8])).withHdr 1 1 1 1).drawn
    u.version = s.version ∧ u.len = s.len ∧ u.draws ≠ s.draws ∧
      ∀ a ∈ decFootprint s.version s.len.toNat s.buf, u.buf.byte a = s.buf.byte a := by decide
theorem witness_DecIgnoresReservedBits : let s := bufState 14 looseSrcPacket; let m := (s.buf.setByte 0 0).setByte 1 0x12#8
    m.byte 1 &&& 0xF3#8 = s.buf.byte 1 &&& 0xF3#8 ∧ m.byte 1 ≠ s.buf.byte 1 := by decide
theorem witness_DecIgnoresReservedBits_rest (a : Nat) (h : 2 ≤ a) : let s := bufState 14 looseSrcPacket
    ((s.buf.setByte 0 0).setByte 1 0x12#8).byte a = s.buf.byte a := by
  have h0 : ¬ a = 0 := by omega
  have h1 : ¬ a = 1 := by omega
  simp only [Memory.byte, Memory.setByte]
  simp [bufState, looseSrcPacket, Memory.setBytes, Memory.setByte, putCell, cellAt, h0, h1]
theorem witness_DecIgnoresTrailingBytes : ∃ t, exec .dec (bufState 6 [0x00#8, 0x10#8, 1#8, 2#8, 3#8, 4#8]) = .next t ∧ t.status = .ok ∧
    (bufState 65535 [0x00#8, 0x10#8, 1#8, 2#8, 3#8, 4#8, 0x99#8]).version = (1 : Version) ∧
    t.result.toNat ≤ (bufState 65535 [0x00#8, 0x10#8, 1#8, 2#8, 3#8, 4#8, 0x99#8]).len.toNat ∧
    ∀ a < t.result.toNat, (bufState 65535 [0x00#8, 0x10#8, 1#8, 2#8, 3#8, 4#8, 0x99#8]).buf.byte a =
      (bufState 6 [0x00#8, 0x10#8, 1#8, 2#8, 3#8, 4#8]).buf.byte a :=
  ⟨_, rfl, by decide, by decide, by decide, by decide⟩
theorem witness_policy_lengths : ((20 = 20 ∨ 20 = 21) ∧ (21 = 20 ∨ 21 = 21)) ∧ (1#4 : Version) = 1#4 := by decide

theorem witness_HeaderShapesDecodeTheirLayout : 6 ≤ (bufState 6 []).len.toNat ∧ 14 ≤ (bufState 14 []).len.toNat ∧
    22 ≤ (bufState 22 []).len.toNat := by decide
theorem witness_HeaderWordsFailInStepOrder_length : (bufState 5 []).len.toNat < 6 := by decide
theorem witness_HeaderWordsFailInStepOrder_version : (2#4 : Version) ≠ (bufState 6 []).version := by decide
theorem witness_HeaderWordsFailInStepOrder_fit : (bufState 21 []).len.toNat < 6 + 8 * true.toNat + 8 * true.toNat ∧
    6 ≤ (bufState 21 []).len.toNat := by decide

theorem witness_enc_fits : let s := hdrState 22 0x01020304 0b11 1 2
    6 + 8 * s.srcValid.toNat + 8 * s.dstValid.toNat ≤ s.len.toNat ∧ s.srcValid = true ∧ s.dstValid = true := by decide
theorem witness_enc_fits_none : let s := hdrState 6 0x01020304 0b00 1 2
    6 + 8 * s.srcValid.toNat + 8 * s.dstValid.toNat ≤ s.len.toNat := by decide
theorem witness_EncTooSmallWritesNothing : let s := hdrState 21 0x01020304 0b11 1 2
    s.len.toNat < 6 + 8 * s.srcValid.toNat + 8 * s.dstValid.toNat := by decide
theorem witness_EncReadsOnlyTheHeader : let s := hdrState 14 5 0b10 1 2; let u := (s.withHdr 5 0b10 1 3).withBuf ⟨[], 0⟩
    u.version = s.version ∧ u.len = s.len ∧ u.header = s.header ∧ u.dstId ≠ s.dstId := by decide
theorem witness_DecodeOfEncodeIsTheHeader : ∃ t, exec .enc (hdrState 14 5 0b10 1 2) = .next t ∧
    (t.withLen 14).version = (hdrState 14 5 0b10 1 2).version ∧ t.result.toNat ≤ (t.withLen 14).len.toNat ∧
    (t.withLen 13).len.toNat < t.result.toNat ∧ ∀ a < t.result.toNat, (t.withLen 13).buf.byte a = t.buf.byte a :=
  ⟨_, rfl, by decide, by decide, by decide, by decide⟩
theorem witness_EncodeOfDecodeIsCanonical : ∃ t, exec .dec (bufState 14 looseSrcPacket) = .next t ∧ t.status = .ok := ⟨_, rfl, by decide⟩
theorem witness_EncodeIsInjective : ∃ t w, exec .enc (hdrState 14 5 0b10 1 2) = .next t ∧ exec .enc (hdrState 22 5 0b10 1 3) = .next w ∧
    t.status = .ok ∧ w.status = .ok ∧ t.result = w.result ∧ ∀ a < t.result.toNat, t.buf.byte a = w.buf.byte a :=
  ⟨_, _, rfl, rfl, by decide, by decide, by decide, by decide⟩

theorem witness_StatusIsNotSticky : ∃ t, perform (.get .status) (bufState 0 []) = .next t ∧ (∀ op, HostAction.get .status ≠ .start op) ∧
    HostAction.get .status ≠ .await ∧ HostAction.get .status ≠ .reset := ⟨_, rfl, by decide, by decide, by decide⟩
theorem witness_OperationsWriteOnlyWhatTheAccessTableSays : ∃ t u, exec .op3 (bufState 0 []) = .next t ∧ Instr.op3 ≠ .enc ∧
    exec .enc (hdrState 6 0 0 0 0) = .next u := ⟨_, _, rfl, by decide, rfl⟩
theorem witness_StepRunsTheDecodedInstruction_command : ∃ i, decode .cmd2 [2#8] = .ok (i, []) ∧
    ((hdrState 6 0 0 0 0).withAgenda [.start 2, .await]).busy = false ∧
    ((hdrState 6 0 0 0 0).withAgenda [.start 2, .await]).agenda = .start ((2#8).setWidth 2) :: [.await] := ⟨_, rfl, rfl, rfl⟩
theorem witness_StepRunsTheDecodedInstruction_header : ∃ i, let s := (bufState 22 fullPacket).withAgenda [.start 0b01#2]
    decode .hdrWord16 [s.buf.byte 0, s.buf.byte 1] = .ok (i, []) ∧ s.busy = false ∧ s.agenda = .start 0b01#2 :: [] := ⟨_, rfl, rfl, rfl⟩
theorem witness_HandshakeRefinesTheTransaction : let s := (bufState 22 fullPacket).withAgenda [.launch 1, .await, .get .status]
    s.busy = false ∧ s.agenda = .launch 1 :: .await :: [.get .status] := by decide

/-- A state with a DEC in progress. -/
def busyState (agenda : List HostAction) : State := ((bufState 22 fullPacket).withBusyOp (some 1)).withAgenda agenda

theorem witness_BusyBlockRefusesTheHost (a : HostAction) : (busyState [a]).busy = true ∧ (busyState [a]).agenda = a :: [] := ⟨rfl, rfl⟩
theorem witness_BusyBlockRefusesTheHost_registers : (RegVal.len 3).reg ≠ .busy ∧ Reg.status ≠ .busy := by decide
theorem witness_DisciplinedHostNeverStops_busy : (busyState [.get .busy]).disciplined = true := by decide
theorem witness_DisciplinedHostNeverStops_edge : ((bufState 0 []).withAgenda [.load 21 [7#8]]).disciplined = true := by decide
theorem witness_DisciplinedHostNeverStops_idle : (bufState 0 []).disciplined = true := by decide
theorem witness_ResetPutsTheControlRegisters : (busyState [.reset, .await]).agenda = .reset :: [.await] ∧
    (busyState [.reset, .await]).busy = true := by decide
theorem witness_OperationsRightAfterReset : State.reset = State.reset ∧ ∃ u : State, (busyState []).applyReset = u.applyReset := ⟨rfl, _, rfl⟩
theorem witness_HostWriteReplacesItsRegister : let s := (bufState 0 []).withAgenda [.set (.present 0b10)]
    s.busy = false ∧ s.agenda = .set (.present 0b10) :: [] := by decide
theorem witness_HostReadReturnsItsRegister_busy : (busyState [.get .busy]).agenda = .get .busy :: [] := by decide
theorem witness_HostReadReturnsItsRegister_idle : let s := (bufState 0 []).withAgenda [.get .status]
    s.busy = false ∧ s.agenda = .get .status :: [] := by decide
theorem witness_SetSrcAndSetDstSetOneIdentifier (id : Option NodeId) : let s := bufState 0 []
    (s.withAgenda [.setSrc id]).busy = false ∧ (s.withAgenda [.setSrc id]).agenda = .setSrc id :: [] ∧
      (s.withAgenda [.setDst id]).busy = false ∧ (s.withAgenda [.setDst id]).agenda = .setDst id :: [] := ⟨rfl, rfl, rfl, rfl⟩
theorem witness_HostLoadIsReadBack_edge : let s := (bufState 0 []).withAgenda [.load 20 [1#8, 2#8], .dump 20 2]
    s.busy = false ∧ s.agenda = .load 20 [1#8, 2#8] :: .dump 20 [1#8, 2#8].length :: [] ∧ 20 + [1#8, 2#8].length ≤ 22 := by decide
theorem witness_HostLoadIsReadBack_outside : let s := (bufState 0 []).withAgenda [.load 21 [1#8, 2#8], .dump 21 2]
    s.busy = false ∧ s.agenda = .load 21 [1#8, 2#8] :: .dump 21 [1#8, 2#8].length :: [] ∧ 22 < 21 + [1#8, 2#8].length := by decide
theorem witness_step_invariants : ∃ t, let s := (hdrState 22 5 0b11 1 2).withAgenda [.start 2]
    s.buf.wf = true ∧ step s = .next t := ⟨_, by decide, rfl⟩
theorem witness_StepKeepsResultLegal : ∃ t, ((hdrState 22 5 0b11 1 2).withAgenda [.start 2]).resultLegal ∧
    step ((hdrState 22 5 0b11 1 2).withAgenda [.start 2]) = .next t := ⟨_, ⟨by decide, by decide⟩, rfl⟩

end Sys2Proof.Tests
end

section
/-! The registers of the state after reset (R29), one lemma for each value the spec gives. -/

namespace Sys2Proof.Machine

@[simp] theorem State.reset_busy : State.reset.busy = false := rfl
@[simp] theorem State.reset_status : State.reset.status = .ok := rfl
@[simp] theorem State.reset_result : State.reset.result = 0 := rfl
@[simp] theorem State.reset_len : State.reset.len = 0 := rfl
@[simp] theorem State.reset_present : State.reset.present = 0 := rfl
@[simp] theorem State.reset_version : State.reset.version = Config.V := rfl

/-- Settles O47, register by register. -/
theorem resetStateHasItsValues : Obligations.ResetStateHasItsValues :=
  ⟨State.reset_busy, State.reset_status, State.reset_result, State.reset_len, State.reset_present, State.reset_version⟩

end Sys2Proof.Machine
end

section
/-! The marshal primitives (R36, R37, R41): the value read is the little-endian sum of its bytes, bit `i` of it is bit
`i % 8` of byte `i / 8`, and so reading and writing undo each other. -/

namespace Sys2Proof.Machine

/-! ## The little-endian sum -/

/-- The little-endian value of the first `n` bytes of a sequence (R36). -/
def leSum (b : Nat → Byte) (n : Nat) : Nat := ∑ k ∈ Finset.range n, (b k).toNat * 2 ^ (8 * k)

theorem leSum_succ (b : Nat → Byte) (n : Nat) : leSum b (n + 1) = 2 ^ (8 * n) * (b n).toNat + leSum b n := by
  rw [leSum, Finset.sum_range_succ, Nat.mul_comm, Nat.add_comm, leSum]

theorem leSum_lt (b : Nat → Byte) (n : Nat) : leSum b n < 2 ^ (8 * n) := by
  induction n with
  | zero => simp [leSum]
  | succ n ih =>
    calc leSum b (n + 1) = 2 ^ (8 * n) * (b n).toNat + leSum b n := leSum_succ b n
      _ < 2 ^ (8 * n) * ((b n).toNat + 1) := by rw [Nat.mul_succ]; omega
      _ ≤ 2 ^ (8 * n) * 2 ^ 8 := Nat.mul_le_mul_left _ (b n).isLt
      _ = 2 ^ (8 * (n + 1)) := by rw [← Nat.pow_add, Nat.mul_succ]

theorem leSum_congr {b b' : Nat → Byte} {n : Nat} (h : ∀ k < n, b k = b' k) : leSum b n = leSum b' n :=
  Finset.sum_congr rfl fun k hk => by rw [h k (Finset.mem_range.mp hk)]

/-- Byte `k` occupies bits `8k` to `8k + 7` of the sum. -/
theorem testBit_leSum (b : Nat → Byte) {n i : Nat} (hi : i < 8 * n) :
    (leSum b n).testBit i = (b (i / 8)).getLsbD (i % 8) := by
  induction n with
  | zero => omega
  | succ n ih =>
    rw [leSum_succ, Nat.testBit_two_pow_mul_add _ (leSum_lt b n)]
    by_cases hlow : i < 8 * n
    · rw [if_pos hlow, ih hlow]
    · rw [if_neg hlow, show i / 8 = n by omega, show i % 8 = i - 8 * n by omega, BitVec.getLsbD]

/-! ## `MemRead` -/

/-- One summand of R36, a byte shifted to its place. -/
theorem setWidth_shiftLeft_eq_ofNat (w : Nat) (x : Byte) (j : Nat) :
    x.setWidth w <<< j = BitVec.ofNat w (2 ^ j * x.toNat) := by
  apply BitVec.eq_of_toNat_eq
  simp [Nat.shiftLeft_eq, Nat.mul_comm]

/-- The loop of R36, at any width: it adds up the little-endian sum. -/
theorem foldl_bytes_eq_ofNat (b : Nat → Byte) (w n : Nat) :
    (List.range n).foldl (fun acc k => acc + ((b k).setWidth w <<< (8 * k))) 0 = BitVec.ofNat w (leSum b n) := by
  induction n with
  | zero => rfl
  | succ n ih =>
    rw [List.range_succ, List.foldl_append, ih, List.foldl_cons, List.foldl_nil, setWidth_shiftLeft_eq_ofNat,
      ← BitVec.ofNat_add, leSum_succ, Nat.add_comm]

/-- R36: the value read is the little-endian sum of its bytes, without wrapping. -/
theorem Memory.toNat_memRead (m : Memory) (addr n : Nat) :
    (m.memRead addr n).toNat = leSum (fun k => m.byte (addr + k)) n := by
  rw [Memory.memRead, foldl_bytes_eq_ofNat (fun k => m.byte (addr + k)), BitVec.toNat_ofNat,
    Nat.mod_eq_of_lt (leSum_lt _ n)]

/-- R36: the value read depends on its `n` bytes only. -/
theorem Memory.memRead_congr {m m' : Memory} {addr n : Nat} (h : ∀ k < n, m'.byte (addr + k) = m.byte (addr + k)) :
    m'.memRead addr n = m.memRead addr n := by
  apply BitVec.eq_of_toNat_eq
  rw [Memory.toNat_memRead, Memory.toNat_memRead, leSum_congr h]

/-- R36: where each bit of the value read comes from. -/
theorem Memory.getLsbD_memRead (m : Memory) (addr : Nat) {n i : Nat} (hi : i < 8 * n) :
    (m.memRead addr n).getLsbD i = (m.byte (addr + i / 8)).getLsbD (i % 8) := by
  rw [BitVec.getLsbD, Memory.toNat_memRead, testBit_leSum _ hi]

/-- Settles O8, by the little-endian sum that the loop of `MemRead` adds up. -/
theorem memReadIsTheLittleEndianSum : Obligations.MemReadIsTheLittleEndianSum :=
  fun m addr n _ _ => ⟨m.toNat_memRead addr n, fun _ h => Memory.memRead_congr h⟩

/-! ## `MemWrite` -/

theorem byteOf_getLsbD {w : Nat} (v : BitVec w) (k : Nat) {i : Nat} (hi : i < 8) :
    (byteOf v k).getLsbD i = v.getLsbD (8 * k + i) := by
  simp [byteOf, hi]

/-- R37: byte `k` of the value is stored at `addr + k`. -/
theorem Memory.byte_memWrite_inside (m : Memory) (addr : Nat) {n k : Nat} (v : BitVec (8 * n)) (hk : k < n) :
    (m.memWrite addr n v).byte (addr + k) = byteOf v k := by
  rw [Memory.memWrite, Memory.byte_setBytes_inside _ _ _ _ (by simpa using hk)]
  simp

/-- R37: a byte outside `[addr, addr + n)` is left as it was. -/
theorem Memory.byte_memWrite_outside (m : Memory) {addr n a : Nat} (v : BitVec (8 * n)) (ha : a < addr ∨ addr + n ≤ a) :
    (m.memWrite addr n v).byte a = m.byte a :=
  Memory.byte_setBytes_outside _ _ _ _ (by simpa using ha)

/-- Settles O9, from the reading-back rules of a store of bytes. -/
theorem memWriteStoresExactlyItsBytes : Obligations.MemWriteStoresExactlyItsBytes :=
  fun m addr _ v _ _ => ⟨fun _ hk => m.byte_memWrite_inside addr v hk, fun _ ha => m.byte_memWrite_outside v ha⟩

/-! ## The two are inverse -/

/-- R41: byte `k` of the value read is the byte at `addr + k`. -/
theorem Memory.byteOf_memRead (m : Memory) (addr : Nat) {n k : Nat} (hk : k < n) :
    byteOf (m.memRead addr n) k = m.byte (addr + k) := by
  apply BitVec.eq_of_getLsbD_eq
  intro i hi
  rw [byteOf_getLsbD _ _ hi, m.getLsbD_memRead addr (by omega), show (8 * k + i) / 8 = k by omega,
    show (8 * k + i) % 8 = i by omega]

/-- R41: reading what was written. -/
theorem Memory.memRead_memWrite (m : Memory) (addr n : Nat) (v : BitVec (8 * n)) :
    (m.memWrite addr n v).memRead addr n = v := by
  apply BitVec.eq_of_getLsbD_eq
  intro i hi
  rw [Memory.getLsbD_memRead _ _ hi, m.byte_memWrite_inside addr v (by omega), byteOf_getLsbD _ _ (by omega),
    show 8 * (i / 8) + i % 8 = i by omega]

/-- R41: writing what was read leaves every byte as it was. -/
theorem Memory.byte_memWrite_memRead (m : Memory) (addr n a : Nat) :
    (m.memWrite addr n (m.memRead addr n)).byte a = m.byte a := by
  by_cases ha : a < addr ∨ addr + n ≤ a
  · exact m.byte_memWrite_outside _ ha
  · obtain ⟨k, rfl⟩ : ∃ k, a = addr + k := ⟨a - addr, by omega⟩
    have hk : k < n := by omega
    rw [m.byte_memWrite_inside addr _ hk, m.byteOf_memRead addr hk]

/-- Settles O10, byte by byte and bit by bit. -/
theorem marshalPrimitivesAreInverse : Obligations.MarshalPrimitivesAreInverse :=
  fun m addr n _ _ => ⟨m.memRead_memWrite addr n, m.byte_memWrite_memRead addr n⟩

end Sys2Proof.Machine
end

section
/-! The header word (R57 to R66): where its fields stand in the two bytes of `BUF`, the word an encode builds, and that
its reserved bits have no influence on a decode and are zero after an encode. -/

namespace Sys2Proof

/-! ## The fields of a header word -/

/-- R60 at the width of the word: the four bits the mask leaves are all that is left after the shift. -/
theorem wordVersion_setWidth (w : HeaderWord) : (wordVersion w).setWidth 16 = (w &&& 0xF000#16) >>> 12 := by
  apply BitVec.eq_of_getLsbD_eq
  intro i hi
  rw [BitVec.getLsbD_setWidth, BitVec.getLsbD_ushiftRight]
  by_cases h : i < 4
  · rw [wordVersion_getLsbD w i h, BitVec.getLsbD_and]
    interval_cases i <;> simp
  · rw [BitVec.getLsbD_of_ge (wordVersion w) i (by omega), BitVec.getLsbD_of_ge _ (12 + i) (by omega), Bool.and_false]

/-- R61: the source-present flag as the test of its mask. -/
theorem wordSrc_eq_true_iff (w : HeaderWord) : wordSrc w = true ↔ w &&& 0x0200#16 ≠ 0 := bne_iff_ne

/-- R61: the destination-present flag as the test of its mask. -/
theorem wordDst_eq_true_iff (w : HeaderWord) : wordDst w = true ↔ w &&& 0x0100#16 ≠ 0 := bne_iff_ne

/-! ## The fields in the two bytes -/

/-- R60: the version is the high nibble of the second byte. -/
theorem wordVersion_append (hi lo : Byte) : wordVersion (hi ++ lo) = hi.extractLsb' 4 4 := by
  apply BitVec.eq_of_getLsbD_eq
  intro i h
  rw [wordVersion_getLsbD _ i h, appendByte_getLsbD, if_neg (by omega), BitVec.getLsbD_extractLsb', decide_eq_true h,
    Bool.true_and, show 12 + i - 8 = 4 + i by omega]

/-- R61: the source-present flag is bit 1 of the second byte. -/
theorem wordSrc_append (hi lo : Byte) : wordSrc (hi ++ lo) = hi.getLsbD 1 := by
  rw [wordSrc_eq_bit, appendByte_getLsbD, if_neg (by decide)]

/-- R61: the destination-present flag is bit 0 of the second byte. -/
theorem wordDst_append (hi lo : Byte) : wordDst (hi ++ lo) = hi.getLsbD 0 := by
  rw [wordDst_eq_bit, appendByte_getLsbD, if_neg (by decide)]

/-- R57, R34: the reserved byte is the first byte. -/
theorem wordReserved_append (hi lo : Byte) : wordReserved (hi ++ lo) = lo := by
  apply BitVec.eq_of_getLsbD_eq
  intro i h
  rw [wordReserved_getLsbD _ i h, appendByte_getLsbD, if_pos h]

/-! ## The word of given fields -/

@[simp] theorem wordVersion_headerBits (v : Version) (f : BitVec 2) (a b : Bool) (r : Byte) :
    wordVersion (headerBits v f a b r) = v := by
  apply BitVec.eq_of_getLsbD_eq
  intro i h
  rw [wordVersion_getLsbD _ i h, headerBits_getLsbD, if_neg (by omega), if_neg (by omega), if_neg (by omega),
    if_neg (by omega), Nat.add_sub_cancel_left]

@[simp] theorem wordSrc_headerBits (v : Version) (f : BitVec 2) (a b : Bool) (r : Byte) :
    wordSrc (headerBits v f a b r) = a := by
  rw [wordSrc_eq_bit, headerBits_getLsbD]; rfl

@[simp] theorem wordDst_headerBits (v : Version) (f : BitVec 2) (a b : Bool) (r : Byte) :
    wordDst (headerBits v f a b r) = b := by
  rw [wordDst_eq_bit, headerBits_getLsbD]; rfl

@[simp] theorem wordFlags_headerBits (v : Version) (f : BitVec 2) (a b : Bool) (r : Byte) :
    wordFlags (headerBits v f a b r) = f := by
  apply BitVec.eq_of_getLsbD_eq
  intro i h
  rw [wordFlags_getLsbD _ i h, headerBits_getLsbD, if_neg (by omega), if_neg (by omega), if_neg (by omega),
    if_pos (by omega), Nat.add_sub_cancel_left]

@[simp] theorem wordReserved_headerBits (v : Version) (f : BitVec 2) (a b : Bool) (r : Byte) :
    wordReserved (headerBits v f a b r) = r := by
  apply BitVec.eq_of_getLsbD_eq
  intro i h
  rw [wordReserved_getLsbD _ i h, headerBits_getLsbD, if_pos h]

/-- R57, R58: the header instruction of a word is made of the fields the word was built from. -/
@[simp] theorem headerOf_headerBits (v : Version) (f : BitVec 2) (a b : Bool) (r : Byte) :
    headerOf (headerBits v f a b r) = headerInstr v a b f r := by
  simp [headerOf]

/-- R65, R66: the mask `0x0CFF` leaves the reserved flags and the reserved byte, and nothing else. -/
theorem and_reservedMask (w : HeaderWord) :
    w &&& 0x0CFF#16 = headerBits 0 (wordFlags w) false false (wordReserved w) := by
  apply BitVec.eq_of_getLsbD_eq
  intro i hi
  rw [headerBits_getLsbD, BitVec.getLsbD_and]
  by_cases h8 : i < 8
  · rw [if_pos h8, wordReserved_getLsbD w i h8]
    interval_cases i <;> simp
  · rw [if_neg h8]
    interval_cases i <;> simp [wordFlags]

/-- A header instruction whose reserved bits are zero is one a producer may emit. -/
theorem wellFormed_headerInstr (v : Version) (a b : Bool) : (headerInstr v a b 0 0).wellFormed = true := by
  cases a <;> cases b <;> rfl

end Sys2Proof

namespace Sys2Proof.Machine

/-- Settles O6: the mask and the shift bit by bit, and the word in `BUF` as its second byte over its first. -/
theorem versionAndFlagsStandInTheSecondByte : Obligations.VersionAndFlagsStandInTheSecondByte := by
  refine ⟨fun w => ⟨wordVersion_setWidth w, wordSrc_eq_true_iff w, wordSrc_eq_bit w, wordDst_eq_true_iff w,
    wordDst_eq_bit w⟩, fun m => ?_⟩
  rw [m.read16_eq 0]
  exact ⟨wordVersion_append _ _, wordSrc_append _ _, wordDst_append _ _⟩

/-! ## The word an encode builds -/

/-- R64, R66: the word an encode builds has version `v`, these flags, and zeros in the reserved bits. -/
theorem encWord_eq_headerBits (v : Version) (a b : Bool) : encWord v a b = headerBits v 0 a b 0 := by
  apply BitVec.eq_of_getLsbD_eq
  intro i hi
  rw [headerBits_getLsbD]
  interval_cases i <;> cases a <;> cases b <;> simp [encWord, Config.versionShift, Config.flagSrc, Config.flagDst]

/-- R57, R70: bits 9 and 8 of a header word stand in the order of `PRESENT`. -/
theorem headerBits_eq_append_presentOf (v : Version) (f : BitVec 2) (a b : Bool) (r : Byte) :
    headerBits v f a b r = (v ++ f ++ presentOf a b ++ r : BitVec 16) := by
  rw [headerBits, BitVec.append_assoc (x₁ := v ++ f)]; rfl

/-- Settles O7: the formula is the definition, the concatenation that of a header word with zero reserved bits. -/
theorem encodedWordIsVersionFlagsAndZeros : Obligations.EncodedWordIsVersionFlagsAndZeros := by
  refine ⟨fun v src dst => ⟨rfl, ?_⟩, rfl, rfl, rfl, rfl⟩
  rw [encWord_eq_headerBits, headerBits_eq_append_presentOf]; rfl

/-! ## A decode and the reserved bits -/

/-- Values that agree under a mask agree in every bit of the mask. -/
theorem getLsbD_eq_of_and_eq {w : Nat} {x y mask : BitVec w} (h : x &&& mask = y &&& mask) {i : Nat}
    (hi : mask.getLsbD i = true) : x.getLsbD i = y.getLsbD i := by
  have hbit := congrArg (BitVec.getLsbD · i) h
  simpa only [BitVec.getLsbD_and, hi, Bool.and_true] using hbit

/-- R65: the version and the flags of a header word owe nothing to the first byte and to bits 3 and 2 of the second. -/
theorem wordFields_congr {hi hi' : Byte} (lo lo' : Byte) (h : hi' &&& 0xF3#8 = hi &&& 0xF3#8) :
    wordVersion (hi' ++ lo') = wordVersion (hi ++ lo) ∧ wordSrc (hi' ++ lo') = wordSrc (hi ++ lo) ∧
      wordDst (hi' ++ lo') = wordDst (hi ++ lo) := by
  refine ⟨?_, ?_, ?_⟩
  · rw [wordVersion_append, wordVersion_append]
    apply BitVec.eq_of_getLsbD_eq
    intro i hlt
    rw [BitVec.getLsbD_extractLsb', BitVec.getLsbD_extractLsb',
      getLsbD_eq_of_and_eq h (i := 4 + i) (by interval_cases i <;> rfl)]
  · rw [wordSrc_append, wordSrc_append, getLsbD_eq_of_and_eq h rfl]
  · rw [wordDst_append, wordDst_append, getLsbD_eq_of_and_eq h rfl]

/-- R77: behind the header word, a decode reads the bytes from index 2 on only. -/
theorem parseHeader_strict_congr {m m' : Memory} (h : ∀ a, 2 ≤ a → m'.byte a = m.byte a) (v : Version) (len : Nat)
    (ver : Version) (a b : Bool) :
    parseHeader Config.dstBoundPolicy v m' len ver a b = parseHeader Config.dstBoundPolicy v m len ver a b := by
  have h32 : m'.read32 2 = m.read32 2 := Memory.memRead_congr fun _ _ => h _ (by omega)
  have h64 (pos : Nat) (hpos : 2 ≤ pos) : m'.read64 pos = m.read64 pos :=
    Memory.memRead_congr fun _ _ => h _ (by omega)
  rw [parseHeader_strict, parseHeader_strict, h32, h64 6 (by decide), h64 (if a then 14 else 6) (by split <;> decide)]

/-- R89: a decode with this outcome ends the same way over any `BUF`, and leaves that `BUF`. -/
theorem State.finishDec_withBuf (s : State) (m : Memory) (r : Except Status (Header × Nat)) :
    (s.withBuf m).finishDec r = (s.finishDec r).withBuf m := by
  cases r with
  | ok p => rfl
  | error k => rfl

/-- The run of a header word over another `BUF` that agrees from index 2 on. -/
theorem State.runHeader_withBuf (s : State) {m : Memory} (h : ∀ a, 2 ≤ a → m.byte a = s.buf.byte a) (v : Version)
    (a b : Bool) : (s.withBuf m).runHeader v a b = (s.runHeader v a b).withBuf m := by
  rw [State.runHeader, State.withBuf_version, State.withBuf_buf, State.withBuf_len, parseHeader_strict_congr h,
    State.finishDec_withBuf, State.runHeader]

/-- Settles O25: both DECs run a header word of the same version and flags over the same bytes behind it. -/
theorem decIgnoresReservedBits : Obligations.DecIgnoresReservedBits := by
  intro s m hword hrest
  obtain ⟨hver, hsrc, hdst⟩ := wordFields_congr (s.buf.byte 0) (m.byte 0) hword
  refine ⟨_, execDec_eq s, ?_⟩
  calc exec .dec (s.withBuf m) = .next ((s.withBuf m).runHeader (wordVersion (m.read16 0)) (wordSrc (m.read16 0))
        (wordDst (m.read16 0))) := execDec_eq _
    _ = _ := by rw [State.runHeader_withBuf s hrest, m.read16_eq, s.buf.read16_eq, hver, hsrc, hdst]

/-! ## The header word after an encode -/

/-- R98: an optional identifier at a cursor leaves every byte before the cursor and from its end on. -/
theorem byte_putId_outside (m : Memory) (id : Option NodeId) {pos a : Nat}
    (ha : a < pos ∨ pos + 8 * id.isSome.toNat ≤ a) : (putId m id pos).1.byte a = m.byte a := by
  cases id with
  | none => rfl
  | some v => exact Memory.byte_memWrite_outside m (n := 8) v (by simpa using ha)

/-- R97, R98: the fields of an encoded header, each written at its index. -/
theorem putHeader_eq (v : Version) (h : Header) (m : Memory) :
    putHeader v h m =
      putId (putId ((m.write16 0 (encWord v h.src.isSome h.dst.isSome)).write32 2 h.msgId) h.src 6).1 h.dst
        (6 + 8 * h.src.isSome.toNat) := by
  rw [← putId_snd]; rfl

/-- R97: the first two bytes of an encoded header are those of its header word. -/
theorem read16_putHeader (v : Version) (h : Header) (m : Memory) :
    (putHeader v h m).1.read16 0 = encWord v h.src.isSome h.dst.isSome := by
  have hkept : ∀ k < 2, (putHeader v h m).1.byte (0 + k) =
      (m.write16 0 (encWord v h.src.isSome h.dst.isSome)).byte (0 + k) := by
    intro k hk
    rw [putHeader_eq, byte_putId_outside _ _ (by omega), byte_putId_outside _ _ (by omega)]
    exact Memory.byte_memWrite_outside _ _ (by omega)
  exact (Memory.memRead_congr hkept).trans (m.memRead_memWrite 0 2 _)

/-- R94, R99: an ENC whose capacity holds the header. -/
theorem exec_enc_of_fits {s : State} (h : s.required ≤ s.len.toNat) :
    exec .enc s = .next ((s.withBuf (putHeader s.version s.header s.buf).1).finish .ok s.required) := by
  rw [exec, execEnc, if_neg (by omega)]

/-- Settles O35: the word in `BUF` is the one of R64, whose reserved bits are zero, and `BUF[0]` is its low byte. -/
theorem encEmitsTheWellFormedHeaderWord : Obligations.EncEmitsTheWellFormedHeaderWord := by
  intro s hfits
  refine ⟨_, exec_enc_of_fits hfits, ?_⟩
  generalize ht : (s.withBuf (putHeader s.version s.header s.buf).1).finish .ok s.required = t
  have hword : t.word = headerBits s.version 0 s.srcValid s.dstValid 0 := by
    rw [← ht, State.word, State.finish_buf, State.withBuf_buf, Config.wordOff, read16_putHeader,
      State.header_src_isSome, State.header_dst_isSome, encWord_eq_headerBits]
  have hheader : headerOf t.word = headerInstr s.version s.srcValid s.dstValid 0 0 := by
    rw [hword, headerOf_headerBits]
  refine ⟨?_, ?_, hheader, ?_⟩
  · rw [hword, and_reservedMask, wordFlags_headerBits, wordReserved_headerBits]; rfl
  · calc t.buf.byte 0 = wordReserved (t.buf.byte 1 ++ t.buf.byte 0) := (wordReserved_append _ _).symm
      _ = wordReserved t.word := by rw [State.word, Config.wordOff, Memory.read16_eq]
      _ = 0x00#8 := by rw [hword, wordReserved_headerBits]; rfl
  · rw [hheader, wellFormed_headerInstr]

end Sys2Proof.Machine
end

section
/-! The encoded size (R73 to R75): what SIZE reports, and that a decoder of the encoded word, ENC and DEC arrive at the
same number. -/

namespace Sys2Proof.Machine

/-! ## SIZE -/

/-- R73: SIZE ends the operation with the size of the header in `HDR`. -/
theorem exec_size (s : State) : exec .size s = .next (s.finish .ok s.required) := rfl

/-- R73: the formula with its constants of R7 in place. -/
theorem State.required_eq_sum (s : State) : s.required = 6 + 8 * s.srcValid.toNat + 8 * s.dstValid.toNat := rfl

/-- R74: the size fits in the five bits of `RESULT`. -/
theorem State.toNat_ofNat_required (s : State) : (BitVec.ofNat 5 s.required).toNat = s.required :=
  toNat_ofNat_encodedSize _ _

/-- R26: the end of an operation writes none of the other registers. -/
theorem State.keepsRegisters_finish (s : State) (st : Status) (r : Nat) : KeepsRegisters s (s.finish st r) :=
  ⟨rfl, rfl, rfl, rfl, rfl, rfl, rfl, rfl, rfl⟩

/-- R26: the end of an operation writes no byte of `BUF`. -/
theorem State.keepsBuffer_finish (s : State) (st : Status) (r : Nat) : KeepsBuffer s (s.finish st r) :=
  ⟨rfl, rfl, rfl, rfl, rfl, fun _ => rfl⟩

/-- Settles O11: SIZE is the bare end of an operation, with the required size as its result. -/
theorem sizeCountsThePresentIdentifiers : Obligations.SizeCountsThePresentIdentifiers := by
  refine ⟨rfl, fun s => ⟨_, exec_size s, ⟨s.finish_status _ _, ?_, s.finish_busy _ _⟩, s.keepsRegisters_finish _ _,
    s.keepsBuffer_finish _ _⟩⟩
  rw [s.finish_result, s.toNat_ofNat_required, s.required_eq_sum]

/-! ## The length a decoder derives -/

/-- R59, R73: the length a header word announces is the size of a header with its presence flags. -/
theorem headerLength_eq_encodedSize (w : HeaderWord) : headerLength w = encodedSize (wordSrc w) (wordDst w) := rfl

/-- R75: the word an encode builds announces the size of the header it was built for. -/
theorem headerLength_encWord (v : Version) (a b : Bool) : headerLength (encWord v a b) = encodedSize a b := by
  rw [headerLength_eq_encodedSize, encWord_eq_headerBits, wordSrc_headerBits, wordDst_headerBits]

/-! ## The result of a successful ENC or DEC -/

/-- R95, R100: an ENC whose capacity is too small. -/
theorem exec_enc_of_too_small {s : State} (h : s.len.toNat < s.required) :
    exec .enc s = .next (s.raise .invalidArgument) := by
  rw [exec, execEnc, if_pos h]

/-- R99: a successful ENC reports the size of the header in `HDR`. -/
theorem result_of_exec_enc_ok {s u : State} (h : exec .enc s = .next u) (hok : u.status = .ok) :
    u.result = BitVec.ofNat 5 s.required := by
  by_cases hfits : s.required ≤ s.len.toNat
  · cases (exec_enc_of_fits hfits).symm.trans h
    rfl
  · cases (exec_enc_of_too_small (Nat.lt_of_not_le hfits)).symm.trans h
    cases hok

/-- R87: a run of a header word that ends with `OK` has loaded the header in the bytes and reports its size. -/
theorem State.runHeader_of_ok {s : State} {v : Version} {a b : Bool} (hok : (s.runHeader v a b).status = .ok) :
    s.runHeader v a b = (s.loadHdr (bufHeader s.buf a b)).finish .ok (encodedSize a b) := by
  rw [State.runHeader_eq] at hok ⊢
  by_cases hlen : s.len.toNat < 6
  · rw [if_pos hlen] at hok; cases hok
  rw [if_neg hlen] at hok ⊢
  by_cases hver : v ≠ s.version
  · rw [if_pos hver] at hok; cases hok
  rw [if_neg hver] at hok ⊢
  by_cases hfit : s.len.toNat < encodedSize a b
  · rw [if_pos hfit] at hok; cases hok
  rw [if_neg hfit]

/-- R75, R87: a successful DEC reports the size of the header it leaves in `HDR`. -/
theorem result_of_exec_dec_ok {u s : State} (h : exec .dec u = .next s) (hok : s.status = .ok) :
    s.result = BitVec.ofNat 5 s.required := by
  cases (execDec_eq u).symm.trans h
  rw [State.runHeader_of_ok hok, State.finish_result, State.required_eq, State.finish_header, State.loadHdr_header,
    bufHeader_src_isSome, bufHeader_dst_isSome]

/-! ## The agreement -/

/-- R74: the three values of the size, by the number of present identifiers. -/
theorem encodedSize_values (a b : Bool) :
    (a = false ∧ b = false → encodedSize a b = 6) ∧ (a ≠ b → encodedSize a b = 14) ∧
      (a = true ∧ b = true → encodedSize a b = 22) := by
  cases a <;> cases b <;> decide

/-- Settles O12: SIZE, the encoded word, ENC and DEC each arrive at the required size of the state. -/
theorem sizeAgreesWithEncAndDec : Obligations.SizeAgreesWithEncAndDec := by
  refine fun s => ⟨_, exec_size s, ?_, ?_, fun u => result_of_exec_enc_ok, fun u => result_of_exec_dec_ok⟩
  · rw [s.finish_result, s.toNat_ofNat_required]
    exact encodedSize_values s.srcValid s.dstValid
  · rw [s.finish_result, s.toNat_ofNat_required]
    exact headerLength_encWord s.version s.srcValid s.dstValid

end Sys2Proof.Machine
end

section
/-! The outcome of a DEC (R77 to R92) as a function of `V`, `LEN` and the bytes of `BUF`: what it is in each step of R77,
which bytes it depends on, and that a DEC leaves all three as they were. -/

namespace Sys2Proof.Machine

/-! ## What a DEC finds -/

/-- R77: the header and its size that a DEC finds in a buffer of `len` bytes, or the error of the first failing check. -/
def decResult (v : Version) (len : Nat) (m : Memory) : Except Status (Header × Nat) :=
  parseHeader Config.dstBoundPolicy v m len (wordVersion (m.read16 0)) (wordSrc (m.read16 0)) (wordDst (m.read16 0))

/-- R77: a DEC ends with what it finds. -/
theorem exec_dec (s : State) : exec .dec s = .next (s.finishDec (decResult s.version s.len.toNat s.buf)) := execDec_eq s

/-- R77, R112: what a DEC finds, in step order. -/
theorem decResult_eq (v : Version) (len : Nat) (m : Memory) :
    decResult v len m =
      if len < 6 then .error .invalidArgument
      else if wordVersion (m.read16 0) ≠ v then .error .versionMismatch
      else if len < headerLength (m.read16 0) then .error .invalidArgument
      else .ok (bufHeader m (wordSrc (m.read16 0)) (wordDst (m.read16 0)), headerLength (m.read16 0)) :=
  parseHeader_strict _ _ _ _ _ _

/-- R78: the length gate. -/
theorem decResult_of_short {v : Version} {len : Nat} (m : Memory) (hlen : len < 6) :
    decResult v len m = .error .invalidArgument := by
  rw [decResult_eq, if_pos hlen]

/-- R79: the version gate. -/
theorem decResult_of_mismatch {v : Version} {len : Nat} {m : Memory} (hlen : 6 ≤ len)
    (hver : wordVersion (m.read16 0) ≠ v) : decResult v len m = .error .versionMismatch := by
  rw [decResult_eq, if_neg (by omega), if_pos hver]

theorem headerLength_ge (w : HeaderWord) : 6 ≤ headerLength w := encodedSize_ge _ _

theorem toNat_ofNat_headerLength (w : HeaderWord) : (BitVec.ofNat 5 (headerLength w)).toNat = headerLength w :=
  toNat_ofNat_encodedSize _ _

/-- R85 in one line: a header is found iff the version is `V` and the header the word announces fits. -/
theorem decResult_eq_ok_iff {v : Version} {len : Nat} {m : Memory} {p : Header × Nat} :
    decResult v len m = .ok p ↔
      wordVersion (m.read16 0) = v ∧ headerLength (m.read16 0) ≤ len ∧
        (bufHeader m (wordSrc (m.read16 0)) (wordDst (m.read16 0)), headerLength (m.read16 0)) = p := by
  have hge := headerLength_ge (m.read16 0)
  rw [decResult_eq]
  by_cases hlen : len < 6
  · exact iff_of_false (by simp [hlen]) fun ⟨_, hfit, _⟩ => by omega
  by_cases hver : wordVersion (m.read16 0) = v
  · by_cases hfit : len < headerLength (m.read16 0)
    · simp [hlen, hver, hfit]
    · simp [hlen, hver, hfit, Nat.le_of_not_lt hfit]
  · simp [hlen, hver]

/-- No failing check reports `OK`. -/
theorem decResult_ne_error_ok (v : Version) (len : Nat) (m : Memory) : decResult v len m ≠ .error .ok := by
  rw [decResult_eq]
  split_ifs <;> simp

/-! ## How a DEC ends -/

/-- R89: a DEC writes neither `BUF` nor `LEN`, whatever it finds. -/
theorem State.keepsBuffer_finishDec (s : State) (r : Except Status (Header × Nat)) : KeepsBuffer s (s.finishDec r) := by
  obtain ⟨hver, hlen, hbuf, hagenda, hreadings, -⟩ := s.finishDec_keeps r
  exact ⟨hver, hlen, hagenda, hreadings, by rw [hbuf], fun _ => by rw [hbuf]⟩

theorem KeepsBuffer.trans {s t u : State} (hst : KeepsBuffer s t) (htu : KeepsBuffer t u) : KeepsBuffer s u := by
  obtain ⟨hver, hlen, hagenda, hreadings, hepoch, hbyte⟩ := hst
  obtain ⟨hver', hlen', hagenda', hreadings', hepoch', hbyte'⟩ := htu
  exact ⟨hver'.trans hver, hlen'.trans hlen, hagenda'.trans hagenda, hreadings'.trans hreadings, hepoch'.trans hepoch,
    fun a => (hbyte' a).trans (hbyte a)⟩

/-- R113: the failure outcome. -/
theorem State.ended_finishDec_error (s : State) (k : Status) : Ended (s.finishDec (.error k)) k 0 := ⟨rfl, rfl, rfl⟩

/-- A DEC that ends with `OK` has found a header. -/
theorem exists_decResult_of_ok {s : State} {v : Version} {len : Nat} {m : Memory}
    (hok : (s.finishDec (decResult v len m)).status = .ok) : ∃ p, decResult v len m = .ok p := by
  have hne := decResult_ne_error_ok v len m
  cases hr : decResult v len m with
  | ok p => exact ⟨p, rfl⟩
  | error k =>
    rw [hr] at hok hne
    exact absurd (congrArg Except.error hok) hne

/-- R87: after a success `HDR` stands for the header that was found. -/
theorem State.finishDec_ok_header (s : State) (p : Header × Nat) : (s.finishDec (.ok p)).header = p.1 :=
  s.loadHdr_header p.1

/-- R92: two DECs that find the same have the same outcome, whatever the states they end in hold else. -/
theorem finishDec_outcome_eq (s u : State) (v : Version) (len : Nat) (m : Memory) :
    (u.finishDec (decResult v len m)).status = (s.finishDec (decResult v len m)).status ∧
      (u.finishDec (decResult v len m)).result = (s.finishDec (decResult v len m)).result ∧
      ((s.finishDec (decResult v len m)).status = .ok →
        (u.finishDec (decResult v len m)).header = (s.finishDec (decResult v len m)).header) := by
  refine ⟨?_, ?_, fun hok => ?_⟩
  · cases decResult v len m <;> rfl
  · cases decResult v len m <;> rfl
  · obtain ⟨p, hp⟩ := exists_decResult_of_ok hok
    rw [hp, State.finishDec_ok_header, State.finishDec_ok_header]

/-! ## The gates -/

/-- A DEC over another `BUF` in which it finds the same ends in the same state, but for `BUF`. -/
theorem exec_dec_withBuf {s : State} {m : Memory} {r : Except Status (Header × Nat)}
    (hr : decResult s.version s.len.toNat m = r) : exec .dec (s.withBuf m) = .next ((s.finishDec r).withBuf m) := by
  rw [exec_dec, State.withBuf_version, State.withBuf_len, State.withBuf_buf, hr, State.finishDec_withBuf]

/-- Settles O15: the length gate is the first check of what a DEC finds. -/
theorem decLengthGateComesFirst : Obligations.DecLengthGateComesFirst := by
  refine ⟨fun s hlen => ?_, fun s hlen hver hsrc hdst => ?_⟩
  · refine ⟨s.finishDec (.error .invalidArgument), ?_, s.ended_finishDec_error _, s.keepsBuffer_finishDec _,
      fun m => exec_dec_withBuf (decResult_of_short m hlen)⟩
    rw [exec_dec, decResult_of_short _ hlen]
  · have hsize : headerLength s.word = 6 := by rw [headerLength_eq_encodedSize, hsrc, hdst]; rfl
    refine ⟨_, exec_dec s, ?_⟩
    rw [decResult_eq_ok_iff.mpr ⟨hver, hsize.trans_le hlen.ge, rfl⟩]
    exact ⟨rfl, (toNat_ofNat_headerLength _).trans hsize, rfl⟩

/-- R36: the header word depends on the first two bytes only. -/
theorem Memory.read16_zero_congr {m m' : Memory} (h : ∀ a < 2, m'.byte a = m.byte a) : m'.read16 0 = m.read16 0 :=
  Memory.memRead_congr fun k hk => h (0 + k) (by omega)

/-- Settles O16: the version gate looks at the header word only, and a header is found only behind it. -/
theorem decVersionGateComesSecond : Obligations.DecVersionGateComesSecond := by
  refine ⟨fun s hlen hver => ?_, fun s t ht hok => ?_⟩
  · refine ⟨s.finishDec (.error .versionMismatch), ?_, s.ended_finishDec_error _, s.keepsBuffer_finishDec _,
      fun m h0 h1 => exec_dec_withBuf (decResult_of_mismatch hlen ?_)⟩
    · rw [exec_dec, decResult_of_mismatch hlen hver]
    · rwa [m.read16_eq, h0, h1, ← s.buf.read16_eq]
  · cases (exec_dec s).symm.trans ht
    obtain ⟨p, hp⟩ := exists_decResult_of_ok hok
    exact (decResult_eq_ok_iff.mp hp).1

/-- Settles O21: the second DEC has the `V`, `LEN` and `BUF` of the first, so it finds the same. -/
theorem decCanBeRepeated : Obligations.DecCanBeRepeated := by
  intro s
  obtain ⟨hver, hlen, hbuf, -⟩ := s.finishDec_keeps (decResult s.version s.len.toNat s.buf)
  refine ⟨_, _, exec_dec s, exec_dec _, s.keepsBuffer_finishDec _,
    (s.keepsBuffer_finishDec _).trans (State.keepsBuffer_finishDec _ _), ?_⟩
  rw [hver, hlen, hbuf]
  exact finishDec_outcome_eq s _ s.version s.len.toNat s.buf

/-! ## The bytes that matter -/

/-- R92: the header in a buffer depends on the bytes below its size only. -/
theorem bufHeader_congr {m m' : Memory} {a b : Bool} (h : ∀ i < encodedSize a b, m'.byte i = m.byte i) :
    bufHeader m' a b = bufHeader m a b := by
  have hread (i n : Nat) (hi : i + n ≤ encodedSize a b) : m'.memRead i n = m.memRead i n :=
    Memory.memRead_congr fun k hk => h (i + k) (by omega)
  have hmsg : m'.read32 2 = m.read32 2 := hread 2 4 (encodedSize_ge a b)
  have hid (i : Nat) : i + 8 ≤ encodedSize a b → m'.read64 i = m.read64 i := hread i 8
  cases a <;> cases b
  · simp only [bufHeader, hmsg, Bool.false_eq_true, if_false]
  · simp only [bufHeader, hmsg, hid 6 (by decide), Bool.false_eq_true, if_false]
  · simp only [bufHeader, hmsg, hid 6 (by decide), Bool.false_eq_true, if_false]
  · simp only [bufHeader, hmsg, hid 6 (by decide), hid 14 (by decide), if_true]

/-- R86: the header a DEC finds in a buffer it finds at every other length that holds it, over the same bytes below its
size. -/
theorem decResult_ok_of_bytes_eq {v : Version} {len len' : Nat} {m m' : Memory} {p : Header × Nat}
    (hp : decResult v len m = .ok p) (hlen : p.2 ≤ len') (hm : ∀ i < p.2, m'.byte i = m.byte i) :
    decResult v len' m' = .ok p := by
  obtain ⟨hver, -, rfl⟩ := decResult_eq_ok_iff.mp hp
  have hword : m'.read16 0 = m.read16 0 :=
    Memory.read16_zero_congr fun i hi => hm i (by have := headerLength_ge (m.read16 0); omega)
  rw [decResult_eq_ok_iff, hword, bufHeader_congr hm]
  exact ⟨hver, hlen, rfl⟩

/-- R87: the size of a header that was found fits in the five bits of `RESULT`. -/
theorem State.toNat_result_finishDec_ok (s : State) {v : Version} {len : Nat} {m : Memory} {p : Header × Nat}
    (hp : decResult v len m = .ok p) : (s.finishDec (.ok p)).result.toNat = p.2 := by
  obtain ⟨-, -, rfl⟩ := decResult_eq_ok_iff.mp hp
  exact toNat_ofNat_headerLength _

/-- Settles O26: the second DEC finds the header of the first, whose size is its `RESULT`. -/
theorem decIgnoresTrailingBytes : Obligations.DecIgnoresTrailingBytes := by
  intro s t u ht hok hver hlen hbytes
  cases (exec_dec s).symm.trans ht
  obtain ⟨p, hp⟩ := exists_decResult_of_ok hok
  rw [hp, s.toNat_result_finishDec_ok hp] at hlen hbytes
  refine ⟨u.finishDec (.ok p), ?_, rfl, by rw [hp]; rfl, ?_⟩
  · rw [exec_dec, hver, decResult_ok_of_bytes_eq hp hlen hbytes]
  · rw [hp, State.finishDec_ok_header, State.finishDec_ok_header]

/-! ## The read footprint -/

/-- R92: the footprint is a head of `BUF` that stays below `LEN` and 22, holds the header word behind the length gate,
and holds the whole header where there is one. -/
theorem exists_decFootprint_eq_range (v : Version) (len : Nat) (m : Memory) :
    ∃ n, decFootprint v len m = List.range n ∧ n ≤ len ∧ n ≤ 22 ∧ (6 ≤ len → 2 ≤ n) ∧
      (wordVersion (m.read16 0) = v → headerLength (m.read16 0) ≤ len → headerLength (m.read16 0) ≤ n) := by
  have hge := headerLength_ge (m.read16 0)
  rw [decFootprint, Config.wordOff]
  by_cases hlen : len < 6
  · exact ⟨0, if_pos hlen, by omega, by omega, by omega, by omega⟩
  rw [if_neg hlen]
  by_cases hver : wordVersion (m.read16 0) ≠ v
  · exact ⟨2, if_pos hver, by omega, by omega, by omega, fun h => absurd h hver⟩
  rw [if_neg hver, headerLength_eq_encodedSize]
  have hone : ∃ n, (if len < 14 then List.range 6 else List.range 14) = List.range n ∧ n ≤ len ∧ n ≤ 22 ∧
      (6 ≤ len → 2 ≤ n) ∧ (wordVersion (m.read16 0) = v → 14 ≤ len → 14 ≤ n) := by
    by_cases h14 : len < 14
    · exact ⟨6, if_pos h14, by omega, by omega, by omega, by omega⟩
    · exact ⟨14, if_neg h14, by omega, by omega, by omega, by omega⟩
  cases wordSrc (m.read16 0) <;> cases wordDst (m.read16 0)
  case false.false => exact ⟨6, rfl, by omega, by omega, by omega, fun _ _ => le_rfl⟩
  case false.true => exact hone
  case true.false => exact hone
  case true.true =>
    by_cases h22 : len < 22
    · obtain ⟨n, hn, hle, hmax, hword, -⟩ := hone
      refine ⟨n, ?_, hle, hmax, hword, fun _ h => absurd h (Nat.not_le_of_lt h22)⟩
      simpa only [h22, if_true] using hn
    · have h14 : ¬ len < 14 := by omega
      exact ⟨22, by simp only [h14, h22, if_false], by omega, by omega, by omega, fun _ _ => le_rfl⟩

/-- R92: what a DEC finds depends on the bytes of its footprint only. -/
theorem decResult_congr {v : Version} {len : Nat} {m m' : Memory}
    (h : ∀ i ∈ decFootprint v len m, m'.byte i = m.byte i) : decResult v len m' = decResult v len m := by
  obtain ⟨n, hn, -, -, hword, hheader⟩ := exists_decFootprint_eq_range v len m
  simp only [hn, List.mem_range] at h
  by_cases hlen : len < 6
  · rw [decResult_of_short m' hlen, decResult_of_short m hlen]
  have h16 : m'.read16 0 = m.read16 0 :=
    Memory.read16_zero_congr fun i hi => h i (by have := hword (by omega); omega)
  rw [decResult_eq, decResult_eq, h16]
  split_ifs with hver hfit
  · rfl
  · rfl
  · rw [bufHeader_congr fun i hi => h i (lt_of_lt_of_le hi (hheader (not_not.mp hver) (Nat.le_of_not_lt hfit)))]

/-- Settles O58: the footprint is a head of `BUF` below `LEN` and 22, and what a DEC finds depends on its bytes only. -/
theorem decOutcomeIsAFunctionOfItsFootprint : Obligations.DecOutcomeIsAFunctionOfItsFootprint := by
  refine fun s => ⟨fun a ha => ?_, fun u hver hlen hbytes => ⟨_, _, exec_dec s, exec_dec u, ?_⟩⟩
  · obtain ⟨n, hn, hlen, hmax, -⟩ := exists_decFootprint_eq_range s.version s.len.toNat s.buf
    rw [hn, List.mem_range] at ha
    omega
  · rw [hver, hlen, decResult_congr hbytes]
    exact finishDec_outcome_eq s u s.version s.len.toNat s.buf

end Sys2Proof.Machine
end

section
/-! ENC (R94 to R102) and the two round trips (R103 to R105): an encoded header read back field by field, what a decode
finds in it, and a decoded header written back. -/

namespace Sys2Proof.Machine

/-! ## The fields of an encoded header -/

/-- R36, R98: an optional identifier at a cursor leaves every value that stands before the cursor or from its end on. -/
theorem memRead_putId_outside (m : Memory) (id : Option NodeId) {pos addr n : Nat}
    (h : addr + n ≤ pos ∨ pos + 8 * id.isSome.toNat ≤ addr) : (putId m id pos).1.memRead addr n = m.memRead addr n :=
  Memory.memRead_congr fun k hk => byte_putId_outside m id (by omega)

/-- R97: the message id is read back at 2. -/
theorem read32_putHeader (v : Version) (h : Header) (m : Memory) : (putHeader v h m).1.read32 2 = h.msgId := by
  rw [putHeader_eq, Memory.read32, memRead_putId_outside _ _ (by omega), memRead_putId_outside _ _ (by omega)]
  exact Memory.memRead_memWrite _ 2 4 _

/-- R98: a present source identifier is read back at 6. -/
theorem read64_putHeader_src (v : Version) {h : Header} (m : Memory) {x : NodeId} (hx : h.src = some x) :
    (putHeader v h m).1.read64 6 = x := by
  rw [putHeader_eq, Memory.read64, memRead_putId_outside _ _ (by rw [hx]; exact .inl le_rfl), hx]
  exact Memory.memRead_memWrite _ 6 8 x

/-- R98: the cursor after an optional source identifier, where the destination identifier stands. -/
theorem dstPos_eq (src : Bool) : 6 + 8 * src.toNat = if src then 14 else 6 := by cases src <;> rfl

/-- R98: a present destination identifier is read back after the source identifier, at 6 when there is none. -/
theorem read64_putHeader_dst (v : Version) {h : Header} (m : Memory) {x : NodeId} (hx : h.dst = some x) :
    (putHeader v h m).1.read64 (if h.src.isSome then 14 else 6) = x := by
  rw [← dstPos_eq, putHeader_eq, hx]
  exact Memory.memRead_memWrite _ _ 8 x

/-- R103: the header in the bytes of an encoded header is that header. -/
theorem bufHeader_putHeader (v : Version) (h : Header) (m : Memory) :
    bufHeader (putHeader v h m).1 h.src.isSome h.dst.isSome = h := by
  have hsrc : (if h.src.isSome then some ((putHeader v h m).1.read64 6) else none) = h.src := by
    cases hx : h.src with
    | none => rfl
    | some x => rw [read64_putHeader_src v m hx]; rfl
  have hdst : (if h.dst.isSome then some ((putHeader v h m).1.read64 (if h.src.isSome then 14 else 6)) else none) =
      h.dst := by
    cases hx : h.dst with
    | none => rfl
    | some x => rw [read64_putHeader_dst v m hx]; rfl
  rw [bufHeader, hsrc, hdst, read32_putHeader]

/-- R101: an encode leaves every byte from the size of the header on. -/
theorem byte_putHeader_outside (v : Version) (h : Header) (m : Memory) {i : Nat}
    (hi : encodedSize h.src.isSome h.dst.isSome ≤ i) : (putHeader v h m).1.byte i = m.byte i := by
  have hsize : 6 + 8 * h.src.isSome.toNat + 8 * h.dst.isSome.toNat ≤ i := hi
  rw [putHeader_eq, byte_putId_outside _ _ (by omega), byte_putId_outside _ _ (by omega)]
  exact (Memory.byte_memWrite_outside _ (n := 4) _ (by omega)).trans (Memory.byte_memWrite_outside _ (n := 2) _ (by omega))

/-! ## What is written does not depend on what was there -/

/-- R37: a byte after a store depends on the byte before it only outside the range of the store. -/
theorem Memory.byte_memWrite_congr {m m' : Memory} {addr n i : Nat} (v : BitVec (8 * n))
    (h : i < addr ∨ addr + n ≤ i → m'.byte i = m.byte i) : (m'.memWrite addr n v).byte i = (m.memWrite addr n v).byte i := by
  by_cases hi : i < addr ∨ addr + n ≤ i
  · rw [Memory.byte_memWrite_outside _ v hi, Memory.byte_memWrite_outside _ v hi, h hi]
  · obtain ⟨k, rfl⟩ : ∃ k, i = addr + k := ⟨i - addr, by omega⟩
    have hk : k < n := by omega
    rw [m'.byte_memWrite_inside addr v hk, m.byte_memWrite_inside addr v hk]

/-- R98: a byte after an optional identifier has been written depends on the byte before it only outside its range. -/
theorem byte_putId_congr {m m' : Memory} (id : Option NodeId) {pos i : Nat}
    (h : i < pos ∨ pos + 8 * id.isSome.toNat ≤ i → m'.byte i = m.byte i) :
    (putId m' id pos).1.byte i = (putId m id pos).1.byte i := by
  cases id with
  | none => exact h (by simpa using Nat.lt_or_ge i pos)
  | some x => exact Memory.byte_memWrite_congr (n := 8) x (by simpa using h)

/-- R102: the bytes of an encoded header owe nothing to the `BUF` it is written to. -/
theorem byte_putHeader_congr (v : Version) (h : Header) (m m' : Memory) {i : Nat}
    (hi : i < encodedSize h.src.isSome h.dst.isSome) : (putHeader v h m').1.byte i = (putHeader v h m).1.byte i := by
  have hsize : i < 6 + 8 * h.src.isSome.toNat + 8 * h.dst.isSome.toNat := hi
  rw [putHeader_eq, putHeader_eq]
  refine byte_putId_congr _ fun hdst => byte_putId_congr _ fun hsrc => ?_
  refine Memory.byte_memWrite_congr (n := 4) _ fun hmsg => Memory.byte_memWrite_congr (n := 2) _ fun hword => ?_
  omega

/-! ## The bytes of an encoded header -/

/-- R64: the low byte of the word an encode builds. -/
theorem byteOf_encWord_zero (v : Version) (a b : Bool) : byteOf (encWord v a b) 0 = 0x00#8 := by
  apply BitVec.eq_of_getLsbD_eq
  intro i hi
  rw [byteOf_getLsbD _ 0 hi, encWord_eq_headerBits, headerBits_getLsbD, if_pos (by omega)]
  simp

/-- R64: the high byte of the word an encode builds, `vvvv 00sd`. -/
theorem byteOf_encWord_one (v : Version) (a b : Bool) :
    byteOf (encWord v a b) 1 =
      (v.setWidth 8 <<< 4) ||| ((BitVec.ofBool a).setWidth 8 <<< 1) ||| (BitVec.ofBool b).setWidth 8 := by
  apply BitVec.eq_of_getLsbD_eq
  intro i hi
  rw [byteOf_getLsbD _ 1 hi, encWord_eq_headerBits, headerBits_getLsbD]
  interval_cases i <;> simp

/-- R36, R37: byte `k` of a stored value is its bits `8k` to `8k + 7`. -/
theorem Memory.byte_eq_extractLsb'_memRead (m : Memory) (addr : Nat) {n k : Nat} (hk : k < n) :
    m.byte (addr + k) = (m.memRead addr n).extractLsb' (8 * k) 8 :=
  (m.byteOf_memRead addr hk).symm.trans BitVec.setWidth_ushiftRight_eq_extractLsb

/-- R34: the two bytes of the header word. -/
theorem Memory.byte_eq_byteOf_read16 (m : Memory) {k : Nat} (hk : k < 2) : m.byte k = byteOf (m.read16 0) k := by
  simpa only [Memory.read16, Nat.zero_add] using (m.byteOf_memRead 0 hk).symm

/-! ## The end of an ENC -/

/-- R99: the outcome registers of an operation that reports the size of the header in `HDR`. -/
theorem ended_finish_required (s u : State) : Ended (u.finish .ok s.required) .ok s.required :=
  ⟨rfl, s.toNat_ofNat_required, rfl⟩

/-- R102: an operation that writes `BUF` and ends leaves the other registers. -/
theorem State.keepsRegisters_withBuf_finish (s : State) (m : Memory) (st : Status) (r : Nat) :
    KeepsRegisters s ((s.withBuf m).finish st r) := ⟨rfl, rfl, rfl, rfl, rfl, rfl, rfl, rfl, rfl⟩

/-- R94, R99: the state a successful ENC ends in. -/
theorem eq_of_exec_enc_ok {s t : State} (h : exec .enc s = .next t) (hok : t.status = .ok) :
    t = (s.withBuf (putHeader s.version s.header s.buf).1).finish .ok s.required := by
  by_cases hfits : s.required ≤ s.len.toNat
  · exact Host.Outcome.next.inj (h.symm.trans (exec_enc_of_fits hfits))
  · cases (exec_enc_of_too_small (Nat.lt_of_not_le hfits)).symm.trans h
    cases hok

/-- Settles O33: without the capacity an ENC is the bare end of an operation. -/
theorem encTooSmallWritesNothing : Obligations.EncTooSmallWritesNothing := fun s hshort =>
  ⟨_, exec_enc_of_too_small hshort, ⟨rfl, rfl, rfl⟩, s.keepsRegisters_finish _ _, s.keepsBuffer_finish _ _⟩

/-- Settles O32: each byte is a byte of a field that is read back, or lies outside the encoded header. -/
theorem encWritesTheHeaderByteByByte : Obligations.EncWritesTheHeaderByteByByte := by
  intro s hfits
  refine ⟨_, exec_enc_of_fits hfits, ended_finish_required s _, ?_, s.keepsRegisters_withBuf_finish _ _ _, ?_⟩
  · rw [putHeader_snd, ← s.required_eq, State.finish_result, s.toNat_ofNat_required]
  rw [State.finish_buf, State.withBuf_buf]
  generalize hm : (putHeader s.version s.header s.buf).1 = m
  have hword : m.read16 0 = encWord s.version s.srcValid s.dstValid := by
    rw [← hm, read16_putHeader, s.header_src_isSome, s.header_dst_isSome]
  have hmsg : m.read32 2 = s.msgId := by rw [← hm, read32_putHeader]; rfl
  have hsrc (h : s.srcValid = true) : m.read64 6 = s.srcId := by
    rw [← hm, read64_putHeader_src _ _ (if_pos h)]
  have hdst (h : s.dstValid = true) : m.read64 (if s.srcValid then 14 else 6) = s.dstId := by
    rw [← hm, ← s.header_src_isSome, read64_putHeader_dst _ _ (if_pos h)]
  refine ⟨?_, ?_, fun k hk => ?_, fun h k hk => ?_, fun h k hk => ?_, fun i hi => ?_⟩
  · rw [m.byte_eq_byteOf_read16 (by decide), hword, byteOf_encWord_zero]
  · rw [m.byte_eq_byteOf_read16 (by decide), hword, byteOf_encWord_one]
  · rw [← hmsg]
    exact m.byte_eq_extractLsb'_memRead 2 hk
  · rw [← hsrc h]
    exact m.byte_eq_extractLsb'_memRead 6 hk
  · rw [← hdst h]
    exact m.byte_eq_extractLsb'_memRead _ hk
  · rw [← hm, byte_putHeader_outside _ _ _ (by rwa [← s.required_eq])]

/-- Settles O34: the size and the bytes below it are functions of `V` and the header. -/
theorem encReadsOnlyTheHeader : Obligations.EncReadsOnlyTheHeader := by
  intro s u hver hlen hheader
  have hreq : u.required = s.required := by rw [u.required_eq, hheader, ← s.required_eq]
  by_cases hfits : s.required ≤ s.len.toNat
  · refine ⟨_, _, exec_enc_of_fits hfits, exec_enc_of_fits (by rwa [hreq, hlen]), s.keepsRegisters_withBuf_finish _ _ _,
      rfl, by rw [hreq]; rfl, fun i hi => ?_⟩
    rw [State.finish_result, s.toNat_ofNat_required, s.required_eq] at hi
    simp only [State.finish_buf, State.withBuf_buf, hver, hheader]
    exact byte_putHeader_congr _ _ _ _ hi
  · have hshort := Nat.lt_of_not_le hfits
    exact ⟨_, _, exec_enc_of_too_small hshort, exec_enc_of_too_small (by rwa [hreq, hlen]), s.keepsRegisters_finish _ _,
      rfl, rfl, fun i hi => absurd hi (Nat.not_lt_zero i)⟩

/-! ## DEC after ENC -/

/-- R103: a decode of an encoded header finds that header, at every length that holds it. -/
theorem decResult_putHeader (v : Version) (h : Header) (m : Memory) {len : Nat}
    (hlen : encodedSize h.src.isSome h.dst.isSome ≤ len) :
    decResult v len (putHeader v h m).1 = .ok (h, encodedSize h.src.isSome h.dst.isSome) := by
  rw [decResult_eq_ok_iff, read16_putHeader, headerLength_encWord, encWord_eq_headerBits, wordVersion_headerBits,
    wordSrc_headerBits, wordDst_headerBits, bufHeader_putHeader]
  exact ⟨rfl, hlen, rfl⟩

/-- R103: over the bytes of a header that is found, a length below its size fails. -/
theorem decResult_error_of_bytes_eq {v : Version} {len len' : Nat} {m m' : Memory} {p : Header × Nat}
    (hp : decResult v len m = .ok p) (hlen : len' < p.2) (hm : ∀ i < p.2, m'.byte i = m.byte i) :
    decResult v len' m' = .error .invalidArgument := by
  obtain ⟨hver, -, rfl⟩ := decResult_eq_ok_iff.mp hp
  have hword : m'.read16 0 = m.read16 0 :=
    Memory.read16_zero_congr fun i hi => hm i (by have := headerLength_ge (m.read16 0); omega)
  rw [decResult_eq, hword, if_neg (not_not.mpr hver), if_pos hlen, ite_self]

/-- Settles O36: a decode of the bytes of the encoded header finds that header, or fails at the length check. -/
theorem decodeOfEncodeIsTheHeader : Obligations.DecodeOfEncodeIsTheHeader := by
  intro s hfits
  have hfound : decResult s.version s.required (putHeader s.version s.header s.buf).1 = .ok (s.header, s.required) := by
    rw [s.required_eq]
    exact decResult_putHeader _ _ _ le_rfl
  refine ⟨_, exec_enc_of_fits hfits, ended_finish_required s _, fun u hver hbytes => ⟨_, exec_dec u, ?_⟩⟩
  rw [State.finish_result, s.toNat_ofNat_required] at hbytes ⊢
  rw [hver]
  refine ⟨fun hlen => ?_, fun hlen => ?_⟩
  · rw [decResult_ok_of_bytes_eq hfound hlen hbytes]
    exact ⟨ended_finish_required s _, u.finishDec_ok_header _⟩
  · rw [decResult_error_of_bytes_eq hfound hlen hbytes]
    rfl

/-- Settles O38: a decode finds the one header and the other in the same bytes. Equal `RESULT` is not needed: the header
word among the bytes announces the size. -/
theorem encodeIsInjective : Obligations.EncodeIsInjective := by
  intro s u t w ht hw htok hwok _ hbytes
  rw [eq_of_exec_enc_ok ht htok, eq_of_exec_enc_ok hw hwok, State.finish_result, s.toNat_ofNat_required,
    s.required_eq] at hbytes
  have hs := decResult_ok_of_bytes_eq (decResult_putHeader s.version s.header s.buf le_rfl) le_rfl
    fun i hi => (hbytes i hi).symm
  have hu := decResult_putHeader u.version u.header u.buf le_rfl
  obtain ⟨-, -, hs⟩ := decResult_eq_ok_iff.mp hs
  obtain ⟨-, -, hu⟩ := decResult_eq_ok_iff.mp hu
  exact (congrArg Prod.fst hs).symm.trans (congrArg Prod.fst hu)

/-! ## ENC after DEC -/

/-- R64, R104: the word an encode builds from the fields of a word is that word with its reserved bits cleared. -/
theorem encWord_wordFields (w : HeaderWord) :
    encWord (wordVersion w) (wordSrc w) (wordDst w) = w &&& 0xF300#16 := by
  apply BitVec.eq_of_getLsbD_eq
  intro i hi
  rw [encWord_eq_headerBits, headerBits_getLsbD, BitVec.getLsbD_and]
  by_cases h12 : i < 12
  · interval_cases i <;> simp [wordSrc_eq_bit, wordDst_eq_bit]
  · rw [if_neg (by omega), if_neg (by omega), if_neg (by omega), if_neg h12, wordVersion_getLsbD w _ (by omega),
      show 12 + (i - 12) = i by omega]
    interval_cases i <;> simp

/-- A mask leaves a value as it is iff the complement of the mask leaves nothing of it. -/
theorem and_eq_self_iff_and_not_eq_zero {w : Nat} (x mask : BitVec w) : x &&& mask = x ↔ x &&& ~~~mask = 0 := by
  constructor <;> intro h
  · rw [← h, BitVec.and_assoc, BitVec.and_not_self]
    exact BitVec.and_zero
  · calc x &&& mask = (x &&& mask) ||| (x &&& ~~~mask) := by rw [h]; exact BitVec.or_zero.symm
      _ = x := by rw [← BitVec.and_or_distrib_left, BitVec.or_not_self, BitVec.and_allOnes]

/-- R37: a byte of a masked value is the byte under that byte of the mask. -/
theorem byteOf_and {w : Nat} (x y : BitVec w) (k : Nat) : byteOf (x &&& y) k = byteOf x k &&& byteOf y k := by
  rw [byteOf, BitVec.ushiftRight_and_distrib, BitVec.setWidth_and]; rfl

/-- R41: a store of a value that was read leaves a byte that is still as it was when the value was read. -/
theorem Memory.byte_memWrite_memRead_of_eq {m m' : Memory} {i : Nat} (addr n : Nat) (h : m'.byte i = m.byte i) :
    (m'.memWrite addr n (m.memRead addr n)).byte i = m.byte i :=
  (Memory.byte_memWrite_congr _ fun _ => h).trans (m.byte_memWrite_memRead addr n i)

/-- R98, R104: likewise for an optional identifier that was read. -/
theorem byte_putId_read64_of_eq {m m' : Memory} {i : Nat} (present : Bool) (pos : Nat) (h : m'.byte i = m.byte i) :
    (putId m' (if present then some (m.read64 pos) else none) pos).1.byte i = m.byte i := by
  cases present with
  | false => exact h
  | true => exact Memory.byte_memWrite_memRead_of_eq pos 8 h

/-- R104: behind the header word, writing the header that stands in a buffer leaves every byte. -/
theorem byte_putHeader_bufHeader (v : Version) (m : Memory) (a b : Bool) {i : Nat} (hi : 2 ≤ i) :
    (putHeader v (bufHeader m a b) m).1.byte i = m.byte i := by
  rw [putHeader_eq, bufHeader_src_isSome, bufHeader_dst_isSome, dstPos_eq]
  refine byte_putId_read64_of_eq b _ (byte_putId_read64_of_eq a 6 ?_)
  exact Memory.byte_memWrite_memRead_of_eq 2 4 (Memory.byte_memWrite_outside _ (n := 2) _ (by omega))

/-- R104: the buffer after the header that a decode finds in it has been written back. -/
def rewritten (m : Memory) : Memory :=
  (putHeader (wordVersion (m.read16 0)) (bufHeader m (wordSrc (m.read16 0)) (wordDst (m.read16 0))) m).1

/-- R104: behind the header word nothing changes. -/
theorem byte_rewritten {m : Memory} {i : Nat} (hi : 2 ≤ i) : (rewritten m).byte i = m.byte i :=
  byte_putHeader_bufHeader _ _ _ _ hi

/-- R104: the header word loses its reserved bits and nothing else. -/
theorem read16_rewritten (m : Memory) : (rewritten m).read16 0 = m.read16 0 &&& 0xF300#16 := by
  rw [rewritten, read16_putHeader, bufHeader_src_isSome, bufHeader_dst_isSome, encWord_wordFields]

/-- R104: the two bytes of the header word, masked. -/
theorem byte_rewritten_word (m : Memory) {k : Nat} (hk : k < 2) :
    (rewritten m).byte k = m.byte k &&& byteOf 0xF300#16 k := by
  rw [Memory.byte_eq_byteOf_read16 _ hk, read16_rewritten, byteOf_and, ← m.byte_eq_byteOf_read16 hk]

/-- R104: the rewrite is the identity iff the reserved bits were zero. -/
theorem byte_rewritten_eq_iff (m : Memory) :
    (∀ i, (rewritten m).byte i = m.byte i) ↔ m.read16 0 &&& 0x0CFF#16 = 0 := by
  rw [show (0x0CFF#16) = ~~~0xF300#16 by decide, ← and_eq_self_iff_and_not_eq_zero, ← read16_rewritten]
  refine ⟨fun h => Memory.read16_zero_congr fun i _ => h i, fun h i => ?_⟩
  by_cases hi : i < 2
  · rw [Memory.byte_eq_byteOf_read16 _ hi, h, ← m.byte_eq_byteOf_read16 hi]
  · exact byte_rewritten (Nat.le_of_not_lt hi)

/-- R104: an ENC after a successful DEC succeeds and writes the header back. -/
theorem exec_enc_of_exec_dec_ok {s t : State} (h : exec .dec s = .next t) (hok : t.status = .ok) :
    exec .enc t = .next ((t.withBuf (rewritten s.buf)).finish .ok t.required) := by
  obtain rfl : s.finishDec (decResult s.version s.len.toNat s.buf) = t :=
    Host.Outcome.next.inj ((exec_dec s).symm.trans h)
  obtain ⟨hversion, hlen, hbuf, -⟩ := s.finishDec_keeps (decResult s.version s.len.toNat s.buf)
  obtain ⟨p, hp⟩ := exists_decResult_of_ok hok
  obtain ⟨hver, hfits, rfl⟩ := decResult_eq_ok_iff.mp hp
  have hheader := s.finishDec_ok_header
    (bufHeader s.buf (wordSrc (s.buf.read16 0)) (wordDst (s.buf.read16 0)), headerLength (s.buf.read16 0))
  rw [← hp] at hheader
  rw [exec_enc_of_fits, hheader, hversion, hbuf, ← hver, rewritten]
  rw [State.required_eq, hheader, bufHeader_src_isSome, bufHeader_dst_isSome, hlen]
  exact hfits

/-- Settles O37: the ENC rewrites the header that the DEC found. -/
theorem encodeOfDecodeIsCanonical : Obligations.EncodeOfDecodeIsCanonical := by
  intro s t ht hok
  refine ⟨_, exec_enc_of_exec_dec_ok ht hok, rfl, (result_of_exec_dec_ok ht hok).symm, ?_⟩
  rw [State.finish_buf, State.withBuf_buf]
  refine ⟨?_, ?_, fun i hi => byte_rewritten hi, byte_rewritten_eq_iff s.buf⟩
  · rw [byte_rewritten_word _ (by decide)]
    exact BitVec.and_zero
  · exact byte_rewritten_word _ (by decide)

end Sys2Proof.Machine
end

section
/-! The exceptions (R107 to R117): the `STATUS` each command ends with, what leads to each error code, and that `STATUS`
and `RESULT` have no influence on an operation. -/

namespace Sys2Proof.Machine

/-! ## The commands -/

/-- R54: the four command codes are all there are. -/
theorem opCode_cases (op : OpCode) : op = 0b00#2 ∨ op = 0b01#2 ∨ op = 0b10#2 ∨ op = 0b11#2 := by
  revert op; decide

/-- R115: the reserved code raises `IllegalOp` and does nothing else. -/
theorem exec_op3 (s : State) : exec .op3 s = .next (s.raise .illegalOp) := rfl

/-- Settles O13: the reserved code and SIZE are both the bare end of an operation. -/
theorem reservedCodeReportsIllegalOp : Obligations.ReservedCodeReportsIllegalOp := fun s =>
  ⟨⟨_, exec_op3 s, exec_op3 s, ⟨s.raise_status _, rfl, s.raise_busy _⟩, s.keepsRegisters_finish _ _,
    s.keepsBuffer_finish _ _⟩, _, exec_size s, s.finish_status _ _⟩

/-! ## The status a command ends with -/

/-- R112: the status a DEC ends with, by the first failing check. -/
theorem State.status_finishDec_decResult (s : State) (v : Version) (len : Nat) (m : Memory) :
    (s.finishDec (decResult v len m)).status =
      if len < 6 then .invalidArgument
      else if wordVersion (m.read16 0) ≠ v then .versionMismatch
      else if len < headerLength (m.read16 0) then .invalidArgument else .ok := by
  rw [decResult_eq]
  split_ifs <;> rfl

/-- R95, R99, R100: the status an ENC ends with. -/
theorem exists_exec_enc_status (s : State) :
    ∃ t, exec .enc s = .next t ∧ t.status = if s.len.toNat < s.required then .invalidArgument else .ok := by
  by_cases hshort : s.len.toNat < s.required
  · exact ⟨_, exec_enc_of_too_small hshort, (if_pos hshort).symm⟩
  · exact ⟨_, exec_enc_of_fits (Nat.le_of_not_lt hshort), (if_neg hshort).symm⟩

/-- Settles O14: by the status of each of the four commands. -/
theorem illegalOpExactlyForTheReservedCode : Obligations.IllegalOpExactlyForTheReservedCode := by
  intro op s
  obtain rfl | rfl | rfl | rfl := opCode_cases op
  · exact ⟨_, exec_size s, iff_of_false (by simp) (by decide)⟩
  · refine ⟨_, exec_dec s, iff_of_false ?_ (by decide)⟩
    rw [State.status_finishDec_decResult]
    split_ifs <;> decide
  · obtain ⟨t, ht, hstatus⟩ := exists_exec_enc_status s
    refine ⟨t, ht, iff_of_false ?_ (by decide)⟩
    rw [hstatus]
    split_ifs <;> decide
  · exact ⟨_, exec_op3 s, iff_of_true (s.raise_status _) rfl⟩

/-! ## A DEC that fails -/

/-- R112: what a DEC finds when a check fails: the code of the first one. -/
theorem decResult_of_failing_check {v : Version} {len : Nat} {m : Memory}
    (h : len < 6 ∨ wordVersion (m.read16 0) ≠ v ∨ len < headerLength (m.read16 0)) :
    decResult v len m = .error (if len < 6 then .invalidArgument
      else if wordVersion (m.read16 0) ≠ v then .versionMismatch else .invalidArgument) := by
  rw [decResult_eq]
  split_ifs with hlen hver hfit
  · rfl
  · rfl
  · rfl
  · simp only [hlen, hver, hfit, or_self] at h

/-- Settles O19: a failing check is what the DEC finds, and a DEC that finds an error ends with its code. -/
theorem decFailureOutcome : Obligations.DecFailureOutcome := by
  refine fun s hfail => ⟨_, ?_, s.ended_finishDec_error _, s.keepsBuffer_finishDec _⟩
  rw [exec_dec, decResult_of_failing_check hfail, State.word, Config.wordOff]

/-! ## What raises `InvalidArgument` -/

/-- R78, R82, R83: a DEC ends with `InvalidArgument` iff the fixed part, or behind the version gate the whole header, does
not fit. -/
theorem State.finishDec_invalidArgument_iff (s : State) (v : Version) (len : Nat) (m : Memory) :
    (s.finishDec (decResult v len m)).status = .invalidArgument ↔
      len < 6 ∨ wordVersion (m.read16 0) = v ∧ len < headerLength (m.read16 0) := by
  rw [s.status_finishDec_decResult]
  split_ifs with hlen hver hfit
  · exact iff_of_true rfl (.inl hlen)
  · simp [hlen, hver]
  · exact iff_of_true rfl (.inr ⟨not_not.mp hver, hfit⟩)
  · simp [hlen, hfit]

/-- R85: behind the length gate a header does not fit iff one of its identifiers does not. -/
theorem lt_headerLength_iff {len : Nat} (hlen : 6 ≤ len) (w : HeaderWord) :
    len < headerLength w ↔ wordSrc w = true ∧ len < 14 ∨
      wordDst w = true ∧ (wordSrc w = false ∧ len < 14 ∨ wordSrc w = true ∧ len < 22) := by
  rw [headerLength_eq_encodedSize]
  cases wordSrc w <;> cases wordDst w <;> simp [encodedSize, Config.fixedBytes, Config.nodeIdBytes]
  · omega
  · omega

/-- Settles O22: by the status of each of the four commands, the header of a DEC split into its identifiers. -/
theorem invalidArgumentExactlyWhen : Obligations.InvalidArgumentExactlyWhen := by
  refine fun s => ⟨⟨_, exec_dec s, ?_⟩, ?_, ⟨_, exec_size s, by simp⟩, _, exec_op3 s, by simp⟩
  · rw [s.finishDec_invalidArgument_iff]
    by_cases hlen : s.len.toNat < 6
    · exact iff_of_true (.inl hlen) (.inl hlen)
    · rw [lt_headerLength_iff (Nat.le_of_not_lt hlen), and_or_left]
      rfl
  · obtain ⟨t, ht, hstatus⟩ := exists_exec_enc_status s
    refine ⟨t, ht, ?_⟩
    rw [hstatus, s.required_eq_sum]
    split_ifs with hshort <;> simp [hshort]

/-! ## What has no influence, and what an action leaves -/

/-- R117: the end of a decode owes nothing to `STATUS` and `RESULT`. -/
theorem State.finishDec_withOutcome (s : State) (k : Status) (r : BitVec 5) (x : Except Status (Header × Nat)) :
    (s.withOutcome k r).finishDec x = s.finishDec x := by
  cases x <;> rfl

/-- R117: the run of a header word owes nothing to `STATUS` and `RESULT`. -/
theorem State.runHeader_withOutcome (s : State) (k : Status) (r : BitVec 5) (v : Version) (a b : Bool) :
    (s.withOutcome k r).runHeader v a b = s.runHeader v a b :=
  s.finishDec_withOutcome k r _

/-- R117: no instruction reads `STATUS` or `RESULT`. -/
theorem exec_withOutcome (i : Instr) (s : State) (k : Status) (r : BitVec 5) :
    exec i (s.withOutcome k r) = exec i s := by
  cases i with
  | size => rfl
  | dec => rw [exec_dec, State.finishDec_withOutcome, exec_dec]; rfl
  | enc => rfl
  | op3 => rfl
  | hdrNone v _ _ | hdrDst v _ _ | hdrSrc v _ _ | hdrBoth v _ _ =>
    exact congrArg Host.Outcome.next (s.runHeader_withOutcome k r v _ _)

/-- R12: `STATUS` and `RESULT` are read-only for the host. -/
theorem State.writeReg_outcome (s : State) (v : RegVal) :
    (s.writeReg v).status = s.status ∧ (s.writeReg v).result = s.result := by
  cases v <;> exact ⟨rfl, rfl⟩

/-- R71: `SETSRC` writes neither `STATUS` nor `RESULT`. -/
theorem State.setSrc_outcome (s : State) (id : Option NodeId) :
    (s.setSrc id).status = s.status ∧ (s.setSrc id).result = s.result := by
  cases id <;> exact ⟨rfl, rfl⟩

/-- R71: `SETDST` writes neither `STATUS` nor `RESULT`. -/
theorem State.setDst_outcome (s : State) (id : Option NodeId) :
    (s.setDst id).status = s.status ∧ (s.setDst id).result = s.result := by
  cases id <;> exact ⟨rfl, rfl⟩

/-- R31: a guarded access that goes on has taken its effect. -/
theorem eq_of_guarded_next {c : Bool} {u t : State} {f : Fault}
    (h : (if c then Host.Outcome.next u else .fault f : Host.Outcome State Fault Refusal) = .next t) : t = u := by
  cases c with
  | true => cases h; rfl
  | false => cases h

/-- Settles O40: no instruction reads the two registers, and no host action but the three that end an operation or reset
the block writes them. -/
theorem statusIsNotSticky : Obligations.StatusIsNotSticky := by
  refine ⟨exec_withOutcome, fun a s t ht hstart hawait hreset => ?_⟩
  cases a with
  | set v => cases ht; exact s.writeReg_outcome v
  | setSrc id => cases ht; exact s.setSrc_outcome id
  | setDst id => cases ht; exact s.setDst_outcome id
  | load _ _ | dump _ _ => rw [eq_of_guarded_next ht]; exact ⟨rfl, rfl⟩
  | launch _ | get _ => cases ht; exact ⟨rfl, rfl⟩
  | start op => exact absurd rfl (hstart op)
  | await => exact absurd rfl hawait
  | reset => exact absurd rfl hreset

/-! ## What raises `VersionMismatch` -/

/-- R79: a DEC ends with `VersionMismatch` iff it passes the length gate and fails the version gate. -/
theorem State.finishDec_versionMismatch_iff (s : State) (v : Version) (len : Nat) (m : Memory) :
    (s.finishDec (decResult v len m)).status = .versionMismatch ↔ 6 ≤ len ∧ wordVersion (m.read16 0) ≠ v := by
  rw [s.status_finishDec_decResult]
  split_ifs with hlen hver hfit
  · simp [hlen]
  · exact iff_of_true rfl ⟨Nat.le_of_not_lt hlen, hver⟩
  · exact iff_of_false (by decide) fun h => hver h.2
  · exact iff_of_false (by decide) fun h => hver h.2

/-- R60: the masked and shifted word is `V` iff the version field is. -/
theorem shifted_eq_setWidth_iff (w : HeaderWord) (v : Version) :
    (w &&& 0xF000#16) >>> 12 = v.setWidth 16 ↔ wordVersion w = v := by
  rw [← wordVersion_setWidth]
  refine ⟨fun h => ?_, fun h => by rw [h]⟩
  simpa using congrArg (BitVec.setWidth 4) h

/-- Settles O23: the version gate of a DEC, the status of the three other commands, and that no operation reads `STATUS`. -/
theorem versionMismatchExactlyWhen : Obligations.VersionMismatchExactlyWhen := by
  refine fun s => ⟨⟨_, exec_dec s, ?_⟩, fun op t hop ht => ?_, fun i => ?_⟩
  · rw [s.finishDec_versionMismatch_iff, Ne, Ne, shifted_eq_setWidth_iff]
  · obtain rfl | rfl | rfl | rfl := opCode_cases op
    · cases (exec_size s).symm.trans ht
      simp
    · exact absurd rfl hop
    · obtain ⟨u, hu, hstatus⟩ := exists_exec_enc_status s
      cases hu.symm.trans ht
      rw [hstatus]
      split_ifs <;> decide
    · cases (exec_op3 s).symm.trans ht
      simp
  · rw [exec_withOutcome, exec_withOutcome]

end Sys2Proof.Machine
end

section
/-! Reset (R127 to R129): what a reset step leaves behind, that an idle block holds its state, and the outcomes of the
operations right after a reset. -/

namespace Sys2Proof.Machine

/-! ## The step -/

/-- R49: with an action to come, a step is that action, taken off the host's list. -/
theorem step_of_agenda_cons {s : State} {a : HostAction} {rest : List HostAction} (h : s.agenda = a :: rest) :
    step s = hostStep a (s.withAgenda rest) := by
  rw [step, h]

/-- R125, R127: an idle block with no action to come holds its state. -/
theorem step_of_idle {s : State} (hagenda : s.agenda = []) (hbusy : s.busyOp = none) : step s = .next s := by
  rw [step, hagenda]
  simp only [complete, hbusy]

/-- R128: reset is allowed whether or not an operation is in progress. -/
theorem hostStep_reset (s : State) : hostStep .reset s = .next s.applyReset := by
  simp [hostStep, HostAction.allowedBusy, perform]

/-- R127, R128: a reset is one step, whatever the block was doing. -/
theorem step_of_reset {s : State} {rest : List HostAction} (h : s.agenda = .reset :: rest) :
    step s = .next (s.withAgenda rest).applyReset := by
  rw [step_of_agenda_cons h, hostStep_reset]

/-- Settles O46: the reset goes through while busy or not, and the block it leaves is idle. -/
theorem resetPutsTheControlRegisters : Obligations.ResetPutsTheControlRegisters := by
  intro s rest hagenda
  refine ⟨(s.withAgenda rest).applyReset, step_of_reset hagenda, ⟨State.applyReset_status _, rfl, State.applyReset_busy _⟩,
    State.applyReset_len _, State.applyReset_present _, State.applyReset_version _, State.applyReset_agenda _, ?_⟩
  exact step_of_idle (State.withAgenda_agenda _ _) (State.applyReset_busyOp (s.withAgenda rest))

/-! ## The operations right after reset -/

/-- R73: with no identifier present the header is its fixed part. -/
theorem State.required_of_present_zero {s : State} (h : s.present = 0) : s.required = 6 := by
  rw [State.required, State.srcValid, State.dstValid, h]
  decide

/-- R29, R127: the state after reset and that after a reset step have no length and no identifier. -/
theorem len_present_of_reset {s : State} (h : s = State.reset ∨ ∃ u : State, s = u.applyReset) :
    s.len = 0 ∧ s.present = 0 := by
  obtain rfl | ⟨u, rfl⟩ := h
  · exact ⟨State.reset_len, State.reset_present⟩
  · exact ⟨u.applyReset_len, u.applyReset_present⟩

/-- Settles O48: SIZE counts the fixed part, `LEN` 0 stops a DEC at the length gate and an ENC before its first write. -/
theorem operationsRightAfterReset : Obligations.OperationsRightAfterReset := by
  intro s hreset
  obtain ⟨hlen, hpresent⟩ := len_present_of_reset hreset
  have hrequired : s.required = 6 := State.required_of_present_zero hpresent
  have hshort : s.len.toNat < 6 := by rw [hlen]; decide
  refine ⟨⟨s.finish .ok 6, ?_, rfl, rfl, rfl⟩, ?_, ?_⟩
  · rw [exec_size, hrequired]
  · obtain ⟨t, hdec, hended, -, hbuf⟩ := decLengthGateComesFirst.1 s hshort
    exact ⟨t, hdec, hended, hbuf⟩
  · obtain ⟨t, henc, hended, -, hkeeps⟩ := encTooSmallWritesNothing s (by rwa [← State.required_eq_sum, hrequired])
    exact ⟨t, henc, hended, hkeeps⟩

end Sys2Proof.Machine
end

section
/-! What the operations can do (R26, R140): one inversion lemma over the instructions, from which completion, the access
table and every invariant of an operation follow. -/

namespace Sys2Proof.Machine

/-! ## The header instructions -/

/-- R51, R58: a header instruction runs its version and its presence flags; its reserved bits are ignored (R65). -/
theorem exec_headerInstr (s : State) (v : Version) (a b : Bool) (f : BitVec 2) (r : Byte) :
    exec (headerInstr v a b f r) s = .next (s.runHeader v a b) := by
  cases a <;> cases b <;> rfl

/-- Settles O31: both run the version and the flags of the word in `BUF[0..1]`. -/
theorem decRunsTheHeaderWordItFetches : Obligations.DecRunsTheHeaderWordItFetches := fun s =>
  (execDec_eq s).trans (exec_headerInstr s _ _ _ _ _).symm

/-! ## The ways an instruction ends -/

/-- The ways an instruction can end at a state: the state after it. A DEC and the four header words all run a header
word, the DEC the one it fetches. -/
inductive ExecEnds (s : State) : Instr → State → Prop where
  | size : ExecEnds s .size (s.finish .ok s.required)
  | encFits : ExecEnds s .enc ((s.withBuf (putHeader s.version s.header s.buf).1).finish .ok s.required)
  | encTooSmall : ExecEnds s .enc (s.raise .invalidArgument)
  | op3 : ExecEnds s .op3 (s.raise .illegalOp)
  | decodes {i : Instr} (hi : ¬(i = .size ∨ i = .enc ∨ i = .op3)) (v : Version) (a b : Bool) :
    ExecEnds s i (s.runHeader v a b)

/-- R140: every instruction answers a next state, in one of these ways. -/
theorem exists_exec_eq_next (i : Instr) (s : State) : ∃ t, exec i s = .next t ∧ ExecEnds s i t := by
  cases i with
  | size => exact ⟨_, exec_size s, .size⟩
  | dec => exact ⟨_, execDec_eq s, .decodes (by simp) _ _ _⟩
  | enc =>
    by_cases hfits : s.required ≤ s.len.toNat
    · exact ⟨_, exec_enc_of_fits hfits, .encFits⟩
    · exact ⟨_, exec_enc_of_too_small (Nat.lt_of_not_le hfits), .encTooSmall⟩
  | op3 => exact ⟨_, exec_op3 s, .op3⟩
  | hdrNone v _ _ | hdrDst v _ _ | hdrSrc v _ _ | hdrBoth v _ _ => exact ⟨_, rfl, .decodes (by simp) v _ _⟩

/-- The inversion lemma of the instructions. -/
theorem execEnds_of_exec {i : Instr} {s t : State} (h : exec i s = .next t) : ExecEnds s i t := by
  obtain ⟨u, hu, hends⟩ := exists_exec_eq_next i s
  cases hu.symm.trans h
  exact hends

/-- R89: what the run of a header word leaves. -/
theorem State.keepsBuffer_runHeader (s : State) (v : Version) (a b : Bool) : KeepsBuffer s (s.runHeader v a b) :=
  s.keepsBuffer_finishDec _

/-- R23: the run of a header word ends with `BUSY` 0. -/
@[simp] theorem State.runHeader_busy (s : State) (v : Version) (a b : Bool) : (s.runHeader v a b).busy = false := by
  obtain ⟨-, -, -, -, -, hbusy⟩ := s.finishDec_keeps
    (parseHeader Config.dstBoundPolicy s.version s.buf s.len.toNat v a b)
  exact hbusy

@[simp] theorem State.runHeader_buf (s : State) (v : Version) (a b : Bool) : (s.runHeader v a b).buf = s.buf := by
  obtain ⟨-, -, hbuf, -⟩ := s.finishDec_keeps (parseHeader Config.dstBoundPolicy s.version s.buf s.len.toNat v a b)
  exact hbuf

/-- Settles O39: each of the ways an instruction ends has `BUSY` 0. -/
theorem everyOperationCompletes : Obligations.EveryOperationCompletes := by
  intro i s
  obtain ⟨t, ht, hends⟩ := exists_exec_eq_next i s
  refine ⟨t, ht, ?_⟩
  cases hends with
  | size | encFits => exact State.finish_busy _ _ _
  | encTooSmall | op3 => exact s.raise_busy _
  | decodes _ v a b => exact s.runHeader_busy v a b

/-- Settles O41: by the ways an instruction ends; only the run of a header word writes `HDR`, and only an ENC `BUF`. -/
theorem operationsWriteOnlyWhatTheAccessTableSays : Obligations.OperationsWriteOnlyWhatTheAccessTableSays := by
  intro i s t ht
  cases execEnds_of_exec ht with
  | size | encTooSmall | op3 => exact ⟨rfl, rfl, rfl, rfl, fun _ _ => rfl, fun _ => ⟨rfl, rfl, rfl, rfl⟩⟩
  | encFits => exact ⟨rfl, rfl, rfl, rfl, fun hne => absurd rfl hne, fun _ => ⟨rfl, rfl, rfl, rfl⟩⟩
  | decodes hi v a b =>
    obtain ⟨hver, hlen, hagenda, hreadings, -, hbyte⟩ := s.keepsBuffer_runHeader v a b
    exact ⟨hver, hlen, hagenda, hreadings, fun _ => hbyte, fun h => absurd h hi⟩

/-! ## What an operation keeps -/

/-- R11, R18: no operation writes `VERSION`. -/
theorem version_of_exec {i : Instr} {s t : State} (h : exec i s = .next t) : t.version = s.version :=
  (operationsWriteOnlyWhatTheAccessTableSays i s t h).1

/-- R33: the bytes an operation writes lie in the window. -/
theorem wf_buf_of_exec {i : Instr} {s t : State} (h : exec i s = .next t) (hwf : s.buf.wf = true) : t.buf.wf = true := by
  cases execEnds_of_exec h with
  | size | encTooSmall | op3 => exact hwf
  | encFits => exact wf_putHeader hwf
  | decodes _ v a b => rwa [s.runHeader_buf]

/-- R21, R74: a size is a legal `RESULT`. -/
theorem State.resultLegal_finish_encodedSize (s : State) (a b : Bool) :
    (s.finish .ok (encodedSize a b)).resultLegal := by
  refine ⟨?_, fun h => absurd rfl h⟩
  rw [s.finish_result, toNat_ofNat_encodedSize]
  exact .inr (encodedSize_cases a b)

/-- R21, R113: `RESULT` is 0 after an error. -/
theorem State.resultLegal_raise (s : State) (k : Status) : (s.raise k).resultLegal := ⟨.inl rfl, fun _ => rfl⟩

/-- R21: every operation ends with a legal `RESULT`, whatever it was before. -/
theorem resultLegal_of_exec {i : Instr} {s t : State} (h : exec i s = .next t) : t.resultLegal := by
  cases execEnds_of_exec h with
  | size | encFits => exact State.resultLegal_finish_encodedSize _ _ _
  | encTooSmall | op3 => exact s.resultLegal_raise _
  | decodes _ v a b =>
    rw [s.runHeader_eq]
    split_ifs
    · exact State.resultLegal_raise _ _
    · exact State.resultLegal_raise _ _
    · exact State.resultLegal_raise _ _
    · exact State.resultLegal_finish_encodedSize _ _ _

end Sys2Proof.Machine
end

section
/-! The step (R49): what the host's port does with an action, an induction over one step, and the invariants of the
machine. -/

namespace Sys2Proof.Machine

/-! ## Inversion of a step -/

/-- R133, R134: an action the host is free to take has its effect. -/
theorem hostStep_of_allowed {a : HostAction} {s : State} (h : s.busy = false ∨ a.allowedBusy = true) :
    hostStep a s = perform a s := by
  obtain h | h := h <;> simp [hostStep, h]

/-- R133, R134: any other action is refused by name. -/
theorem hostStep_of_not_allowed {a : HostAction} {s : State} (hbusy : s.busy = true) (ha : a.allowedBusy = false) :
    hostStep a s = .refused (if a.starts then .startWhileBusy else .hostAccessWhileBusy) := by
  simp [hostStep, hbusy, ha]

/-- A host action that goes on has had its effect. -/
theorem perform_of_hostStep {a : HostAction} {s t : State} (h : hostStep a s = .next t) : perform a s = .next t := by
  by_cases hrefused : (s.busy && !a.allowedBusy) = true
  · rw [hostStep, if_pos hrefused] at h
    cases h
  · rwa [hostStep, if_neg hrefused] at h

/-- R23, R125: a wait runs the operation in progress, and with none in progress changes nothing. -/
theorem exec_or_eq_of_complete {s t : State} (h : complete s = .next t) : (∃ i, exec i s = .next t) ∨ t = s := by
  cases hop : s.busyOp with
  | some op => exact .inl ⟨commandOf op, by simpa only [complete, hop] using h⟩
  | none =>
    simp only [complete, hop] at h
    cases h
    exact .inr rfl

/-- R49: one step for an invariant. It is kept if the host's list is no part of it, every instruction keeps it, and so does
every host action that runs no instruction. -/
theorem step_preserves {P : State → Prop} (hagenda : ∀ s as, P s → P (s.withAgenda as))
    (hexec : ∀ i s t, exec i s = .next t → P s → P t)
    (hperform : ∀ a s t, perform a s = .next t → (∀ op, a ≠ .start op) → a ≠ .await → P s → P t)
    {s t : State} (hs : P s) (h : step s = .next t) : P t := by
  have hcomplete {s t : State} (hs : P s) (h : complete s = .next t) : P t := by
    obtain ⟨i, hi⟩ | rfl := exec_or_eq_of_complete h
    · exact hexec i s t hi hs
    · exact hs
  cases hlist : s.agenda with
  | nil =>
    rw [step, hlist] at h
    exact hcomplete hs h
  | cons a rest =>
    rw [step_of_agenda_cons hlist] at h
    have hp := perform_of_hostStep h
    have hs' := hagenda s rest hs
    by_cases hstart : ∃ op, a = .start op
    · obtain ⟨op, rfl⟩ := hstart
      exact hexec _ _ _ hp hs'
    · by_cases hawait : a = .await
      · subst hawait
        exact hcomplete hs' hp
      · exact hperform a _ _ hp (not_exists.mp hstart) hawait hs'

/-! ## What a host action keeps -/

/-- R26, R27: a host write of a register writes neither `VERSION` nor `BUF`. -/
theorem State.writeReg_version_buf (s : State) (v : RegVal) :
    (s.writeReg v).version = s.version ∧ (s.writeReg v).buf = s.buf := by
  cases v <;> exact ⟨rfl, rfl⟩

theorem State.setSrc_version_buf (s : State) (id : Option NodeId) :
    (s.setSrc id).version = s.version ∧ (s.setSrc id).buf = s.buf := by
  cases id <;> exact ⟨rfl, rfl⟩

theorem State.setDst_version_buf (s : State) (id : Option NodeId) :
    (s.setDst id).version = s.version ∧ (s.setDst id).buf = s.buf := by
  cases id <;> exact ⟨rfl, rfl⟩

/-- R31: an access to the window that goes on lies inside it, and has had its effect. -/
theorem inWindow_of_guarded_next {n c : Nat} {u t : State} {f : Fault}
    (h : (if inWindow n c then Host.Outcome.next u else .fault f : Host.Outcome State Fault Refusal) = .next t) :
    n + c ≤ 22 ∧ t = u := by
  refine ⟨?_, eq_of_guarded_next h⟩
  by_contra hout
  have hwin : inWindow n c = false := decide_eq_false hout
  rw [hwin] at h
  cases h

/-- R26, R27, R128: what the host's actions do to `VERSION` and `BUF`: a `LOAD` stores inside the window, a reset clears
the list, and nothing else is written. -/
theorem version_buf_of_perform {a : HostAction} {s t : State} (h : perform a s = .next t) (hstart : ∀ op, a ≠ .start op)
    (hawait : a ≠ .await) :
    t.version = s.version ∧
      (t.buf = s.buf ∨ (∃ n bs, n + bs.length ≤ 22 ∧ t.buf = s.buf.setBytes n bs) ∨ t.buf = ⟨[], s.draws⟩) := by
  cases a with
  | set v => cases h; exact (s.writeReg_version_buf v).imp_right .inl
  | setSrc id => cases h; exact (s.setSrc_version_buf id).imp_right .inl
  | setDst id => cases h; exact (s.setDst_version_buf id).imp_right .inl
  | load n bs =>
    obtain ⟨hwin, rfl⟩ := inWindow_of_guarded_next h
    exact ⟨rfl, .inr (.inl ⟨n, bs, hwin, rfl⟩)⟩
  | dump _ _ => rw [eq_of_guarded_next h]; exact ⟨rfl, .inl rfl⟩
  | launch _ | get _ => cases h; exact ⟨rfl, .inl rfl⟩
  | reset => cases h; exact ⟨rfl, .inr (.inr rfl)⟩
  | start op => exact absurd rfl (hstart op)
  | await => exact absurd rfl hawait

/-- R31: no host action lists a byte outside the window. -/
theorem wf_buf_of_perform {a : HostAction} {s t : State} (h : perform a s = .next t) (hstart : ∀ op, a ≠ .start op)
    (hawait : a ≠ .await) (hwf : s.buf.wf = true) : t.buf.wf = true := by
  obtain ⟨-, hbuf | ⟨n, bs, hwin, hbuf⟩ | hbuf⟩ := version_buf_of_perform h hstart hawait
  · rwa [hbuf]
  · rw [hbuf]
    exact Memory.wf_setBytes hwin hwf
  · rw [hbuf]
    exact Memory.wf_empty _

/-- R21: no host action makes `RESULT` illegal: a reset clears it, and no other action writes it (R117). -/
theorem resultLegal_of_perform {a : HostAction} {s t : State} (h : perform a s = .next t)
    (hstart : ∀ op, a ≠ .start op) (hawait : a ≠ .await) (hs : s.resultLegal) : t.resultLegal := by
  by_cases hreset : a = .reset
  · subst hreset
    cases h
    exact ⟨.inl rfl, fun _ => rfl⟩
  · obtain ⟨hstatus, hresult⟩ := statusIsNotSticky.2 a s t h hstart hawait hreset
    rwa [State.resultLegal, hstatus, hresult]

/-! ## The invariants -/

/-- Settles O53: the host stores inside the window or faults, and an ENC stays below 22. -/
theorem stepKeepsBufCanonical : Obligations.StepKeepsBufCanonical := fun _ _ =>
  step_preserves (P := fun s => s.buf.wf = true) (fun _ _ h => h) (fun _ _ _ => wf_buf_of_exec)
    (fun _ _ _ => wf_buf_of_perform)

/-- Settles O54: nothing is listed. -/
theorem resetBufIsCanonical : Obligations.ResetBufIsCanonical := Memory.wf_empty 0

/-- Settles O55: every operation ends with a legal `RESULT`, and of the host's actions only a reset writes it. -/
theorem stepKeepsResultLegal : Obligations.StepKeepsResultLegal := fun _ _ =>
  step_preserves (P := State.resultLegal) (fun _ _ h => h) (fun _ _ _ h _ => resultLegal_of_exec h)
    (fun _ _ _ => resultLegal_of_perform)

/-- Settles O56: `RESULT` is 0. -/
theorem resetResultIsLegal : Obligations.ResetResultIsLegal :=
  ⟨.inl (congrArg BitVec.toNat State.reset_result), fun h => absurd State.reset_status h⟩

/-- Settles O57: neither an operation nor a host action writes `VERSION`. -/
theorem versionNeverChanges : Obligations.VersionNeverChanges := by
  refine ⟨State.reset_version, fun s t => ?_⟩
  exact step_preserves (P := fun u => u.version = s.version) (fun _ _ h => h)
    (fun _ _ _ h hs => (version_of_exec h).trans hs)
    (fun _ _ _ h hstart hawait hs => (version_buf_of_perform h hstart hawait).1.trans hs) rfl

end Sys2Proof.Machine
end

section
/-! The encodings (R53 to R58): decoding and encoding undo each other, and each word belongs to one row of the opcode
table. -/

namespace Sys2Proof

/-! ## A word and its two bytes -/

/-- R34: the two bytes of a word, put together again. -/
theorem wordBytes_join (w : HeaderWord) : (w.extractLsb' 8 8 ++ w.extractLsb' 0 8 : BitVec 16) = w :=
  (BitVec.extractLsb'_append_extractLsb'_eq_extractLsb' (by decide)).trans BitVec.extractLsb'_eq_self

/-- R34: the bytes of a word put together from two bytes, the low one first. -/
theorem wordBytes_append (hi lo : Byte) : wordBytes (hi ++ lo) = [lo, hi] := by
  rw [wordBytes, BitVec.extractLsb'_append_eq_right, BitVec.extractLsb'_append_eq_left]

/-! ## The header words -/

/-- R57: the fields of a word are all there is to it. -/
theorem headerBits_wordFields (w : HeaderWord) :
    headerBits (wordVersion w) (wordFlags w) (wordSrc w) (wordDst w) (wordReserved w) = w := by
  apply BitVec.eq_of_getLsbD_eq
  intro i hi
  rw [headerBits_getLsbD]
  split_ifs with h8 h8 h9 h12
  · exact wordReserved_getLsbD w i h8
  · rw [wordDst_eq_bit, h8]
  · rw [wordSrc_eq_bit, h9]
  · rw [wordFlags_getLsbD w _ (by omega), show 10 + (i - 10) = i by omega]
  · rw [wordVersion_getLsbD w _ (by omega), show 12 + (i - 12) = i by omega]

@[simp] theorem format_headerInstr (v : Version) (a b : Bool) (f : BitVec 2) (r : Byte) :
    (headerInstr v a b f r).format = .hdrWord16 := by
  cases a <;> cases b <;> rfl

/-- R57: a header instruction is encoded as the word of its fields. -/
theorem encode_headerInstr (v : Version) (a b : Bool) (f : BitVec 2) (r : Byte) :
    encode (headerInstr v a b f r) = wordBytes (headerBits v f a b r) := by
  cases a <;> cases b <;> rfl

/-- R57, R58: a header instruction decodes from its encoding. -/
theorem decode_encode_headerInstr (v : Version) (a b : Bool) (f : BitVec 2) (r : Byte) (rest : List Byte) :
    decode .hdrWord16 (encode (headerInstr v a b f r) ++ rest) = .ok (headerInstr v a b f r, rest) := by
  rw [encode_headerInstr, wordBytes, List.cons_append, List.cons_append, List.nil_append, decode, wordBytes_join,
    headerOf_headerBits]

/-- R57, R58: a header word is the encoding of the instruction it stands for. -/
theorem encode_headerOf (hi lo : Byte) : encode (headerOf (hi ++ lo)) = [lo, hi] := by
  rw [headerOf, encode_headerInstr, headerBits_wordFields, wordBytes_append]

/-! ## The commands -/

@[simp] theorem format_commandOf (op : OpCode) : (commandOf op).format = .cmd2 := by
  revert op; decide

/-- R54: a command is encoded as its code (log 18). -/
theorem encode_commandOf (op : OpCode) : encode (commandOf op) = [op.setWidth 8] := by
  revert op; decide

/-- R53: a command byte without a higher bit is its low two bits (log 18). -/
theorem setWidth_setWidth_of_lt_four {b : Byte} (h : b.toNat < 4) : (b.setWidth 2).setWidth 8 = b := by
  apply BitVec.eq_of_toNat_eq
  rw [BitVec.toNat_setWidth, BitVec.toNat_setWidth]
  omega

/-- R53, log 18: when a byte decodes as a command. -/
theorem decode_cmd2_eq_ok_iff {b : Byte} {bytes rest : List Byte} {i : Instr} :
    decode .cmd2 (b :: bytes) = .ok (i, rest) ↔ b.toNat < 4 ∧ commandOf (b.setWidth 2) = i ∧ bytes = rest := by
  rw [decode]
  by_cases h : b.toNat < 4 <;> simp [h]

/-! ## The round trips -/

/-- Settles O1: a command by its code, a header word by its fields. -/
theorem encodeThenDecodeIsIdentity : Obligations.EncodeThenDecodeIsIdentity := by
  intro i rest
  cases i with
  | size | dec | enc | op3 => rfl
  | hdrNone v f r => exact decode_encode_headerInstr v false false f r rest
  | hdrDst v f r => exact decode_encode_headerInstr v false true f r rest
  | hdrSrc v f r => exact decode_encode_headerInstr v true false f r rest
  | hdrBoth v f r => exact decode_encode_headerInstr v true true f r rest

/-- Settles O2: by the bytes the decoder consumes, one of a command and two of a header word. -/
theorem decodeThenEncodeIsIdentity : Obligations.DecodeThenEncodeIsIdentity := by
  intro f bytes i rest h
  match f, bytes with
  | .cmd2, [] => cases h
  | .cmd2, b :: bytes =>
    obtain ⟨hb, rfl, rfl⟩ := decode_cmd2_eq_ok_iff.mp h
    refine ⟨format_commandOf _, ?_⟩
    rw [encode_commandOf, setWidth_setWidth_of_lt_four hb, List.singleton_append]
  | .hdrWord16, [] | .hdrWord16, [_] => cases h
  | .hdrWord16, lo :: hi :: bytes =>
    cases h
    refine ⟨format_headerInstr _ _ _ _ _, ?_⟩
    rw [encode_headerOf]
    rfl

/-! ## The opcode table -/

/-- R58: the mask `0x0300` leaves the two presence flags. -/
theorem and_shapeMask (w : HeaderWord) : w &&& 0x0300#16 = headerBits 0 0 (wordSrc w) (wordDst w) 0 := by
  apply BitVec.eq_of_getLsbD_eq
  intro i hi
  rw [headerBits_getLsbD, BitVec.getLsbD_and, wordSrc_eq_bit, wordDst_eq_bit]
  interval_cases i <;> simp

/-- R58: the mnemonic of a header word depends on its presence flags only. -/
theorem mnemonic_headerOf (w : HeaderWord) :
    (headerOf w).mnemonic = (headerInstr 0 (wordSrc w) (wordDst w) 0 0).mnemonic := by
  rw [headerOf]
  cases wordSrc w <;> cases wordDst w <;> rfl

/-- R58: the rows of the header words look at the presence flags only. -/
theorem mask_of_mem_opcodeTable : ∀ r ∈ opcodeTable, r.format = .hdrWord16 → r.mask = 0x0300#16 := by decide

/-- R58: whether a header word belongs to a row is a matter of its presence flags. -/
theorem OpcodeRow.holds_hdrWord16 {r : OpcodeRow} (hr : r ∈ opcodeTable) (w : HeaderWord) :
    r.holds .hdrWord16 w = (r.format == .hdrWord16 && headerBits 0 0 (wordSrc w) (wordDst w) 0 == r.pattern) := by
  by_cases hformat : r.format = .hdrWord16
  · rw [OpcodeRow.holds, mask_of_mem_opcodeTable r hr hformat, and_shapeMask]
  · rw [OpcodeRow.holds, beq_false_of_ne hformat, Bool.false_and, Bool.false_and]

/-- Settles O5: a header word by its presence flags, which are all that its rows look at; a command by its code. -/
theorem everyWordMatchesExactlyOneTableRow : Obligations.EveryWordMatchesExactlyOneTableRow := by
  refine ⟨fun w => ?_, by decide⟩
  rw [mnemonic_headerOf, List.filter_congr fun r hr => r.holds_hdrWord16 hr w]
  cases wordSrc w <;> cases wordDst w <;> decide

/-- R58: `word & 0x0300` selects the mnemonic. -/
theorem mnemonic_headerOf_iff (w : HeaderWord) :
    ((headerOf w).mnemonic = "HDR.NONE" ↔ w &&& 0x0300#16 = 0x0000#16) ∧
      ((headerOf w).mnemonic = "HDR.DST" ↔ w &&& 0x0300#16 = 0x0100#16) ∧
      ((headerOf w).mnemonic = "HDR.SRC" ↔ w &&& 0x0300#16 = 0x0200#16) ∧
      ((headerOf w).mnemonic = "HDR.BOTH" ↔ w &&& 0x0300#16 = 0x0300#16) := by
  rw [mnemonic_headerOf, and_shapeMask]
  cases wordSrc w <;> cases wordDst w <;> decide

/-- Settles O3: row by row of R54 and R55. -/
theorem commandCodesSelectTheirOperations : Obligations.CommandCodesSelectTheirOperations := ⟨rfl, rfl, rfl, rfl⟩

/-- Settles O4: by running the decoder on each word. -/
theorem specWordsDecodeToTheirInstructions : Obligations.SpecWordsDecodeToTheirInstructions :=
  ⟨rfl, rfl, rfl, rfl, rfl, rfl⟩

end Sys2Proof
end

section
/-! DEC and the header words (R58, R77 to R92, R138): when a header is found and what its registers hold then, what is
left free, and the two arithmetics of the bounds check. -/

namespace Sys2Proof.Machine

/-! ## When a DEC succeeds -/

/-- R85 in one line: a DEC ends with `OK` iff the version is `V` and the header the word announces fits. -/
theorem State.finishDec_ok_iff (s : State) (v : Version) (len : Nat) (m : Memory) :
    (s.finishDec (decResult v len m)).status = .ok ↔
      wordVersion (m.read16 0) = v ∧ headerLength (m.read16 0) ≤ len := by
  constructor
  · intro hok
    obtain ⟨p, hp⟩ := exists_decResult_of_ok hok
    obtain ⟨hver, hfits, -⟩ := decResult_eq_ok_iff.mp hp
    exact ⟨hver, hfits⟩
  · rintro ⟨hver, hfits⟩
    rw [decResult_eq_ok_iff.mpr ⟨hver, hfits, rfl⟩]
    rfl

/-- Settles O17: a header that fits is at least 6 bytes long. -/
theorem decSucceedsExactlyWhenTheHeaderFits : Obligations.DecSucceedsExactlyWhenTheHeaderFits := by
  intro s
  refine ⟨_, exec_dec s, ?_⟩
  rw [s.finishDec_ok_iff]
  exact ⟨fun ⟨hver, hfits⟩ => ⟨(headerLength_ge _).trans hfits, hver, hfits⟩, fun ⟨_, hver, hfits⟩ => ⟨hver, hfits⟩⟩

/-! ## What HDR holds after a DEC -/

/-- R16, R87: nothing of the `HDR` before survives the end of a decode (the register of an absent identifier: log 5). -/
theorem State.finishDec_withHdr (s : State) (r : Except Status (Header × Nat)) (m : MessageId) (p : BitVec 2)
    (a b : NodeId) : (s.withHdr m p a b).finishDec r = s.finishDec r := by
  cases r <;> rfl

/-- R87: the state after a header has been found. -/
theorem exec_dec_of_fits {s : State} (hfits : headerLength s.word ≤ s.len.toNat) (hver : wordVersion s.word = s.version) :
    exec .dec s = .next ((s.loadHdr (bufHeader s.buf (wordSrc s.word) (wordDst s.word))).finish .ok
      (headerLength s.word)) := by
  rw [exec_dec, decResult_eq_ok_iff.mpr ⟨hver, hfits, rfl⟩]
  rfl

@[simp] theorem State.finish_srcValid (s : State) (st : Status) (r : Nat) : (s.finish st r).srcValid = s.srcValid := rfl
@[simp] theorem State.finish_dstValid (s : State) (st : Status) (r : Nat) : (s.finish st r).dstValid = s.dstValid := rfl

@[simp] theorem State.loadHdr_srcValid (s : State) (h : Header) : (s.loadHdr h).srcValid = h.src.isSome :=
  presentOf_src _ _

@[simp] theorem State.loadHdr_dstValid (s : State) (h : Header) : (s.loadHdr h).dstValid = h.dst.isSome :=
  presentOf_dst _ _

/-- Settles O18: register by register after the found header has been loaded. -/
theorem decSuccessFillsTheHeader : Obligations.DecSuccessFillsTheHeader := by
  intro s hfits hver
  have hdec := exec_dec_of_fits hfits hver
  refine ⟨_, hdec, ⟨State.finish_status _ _ _, ?_, State.finish_busy _ _ _⟩, ?_, ?_, fun hsrc => ?_, ?_, fun hdst => ?_,
    s.keepsBuffer_finishDec (.ok (bufHeader s.buf (wordSrc s.word) (wordDst s.word), headerLength s.word)),
    fun m p a b => ?_⟩
  · exact toNat_ofNat_headerLength s.word
  · rw [State.finish_msgId, State.loadHdr_msgId, bufHeader]
  · rw [State.finish_srcValid, State.loadHdr_srcValid, bufHeader_src_isSome]
  · rw [State.finish_srcId, State.loadHdr_srcId, bufHeader, if_pos hsrc, Option.getD_some]
  · rw [State.finish_dstValid, State.loadHdr_dstValid, bufHeader_dst_isSome]
  · rw [State.finish_dstId, State.loadHdr_dstId, bufHeader, if_pos hdst, Option.getD_some]
  · rw [← hdec, exec_dec, exec_dec, State.finishDec_withHdr]
    rfl

/-- R16, log 5: a header without a source identifier leaves its register free. -/
theorem State.loadHdr_srcId_of_absent {s : State} {h : Header} (hsrc : (s.loadHdr h).srcValid = false) :
    (s.loadHdr h).srcId = Config.freeSrcId s.draws := by
  rw [State.loadHdr_srcValid, Option.isSome_eq_false_iff, Option.isNone_iff_eq_none] at hsrc
  rw [State.loadHdr_srcId, hsrc, Option.getD_none]

/-- R17, log 5: a header without a destination identifier leaves its register free. -/
theorem State.loadHdr_dstId_of_absent {s : State} {h : Header} (hdst : (s.loadHdr h).dstValid = false) :
    (s.loadHdr h).dstId = Config.freeDstId s.draws := by
  rw [State.loadHdr_dstValid, Option.isSome_eq_false_iff, Option.isNone_iff_eq_none] at hdst
  rw [State.loadHdr_dstId, hdst, Option.getD_none]

/-- Settles O20: an error leaves all of `HDR` to the draw, a found header the registers it has no identifier for. -/
theorem decLeavesUnspecifiedRegistersFree : Obligations.DecLeavesUnspecifiedRegistersFree := by
  intro s
  refine ⟨_, exec_dec s, ?_⟩
  have hne := decResult_ne_error_ok s.version s.len.toNat s.buf
  cases hr : decResult s.version s.len.toNat s.buf with
  | error k =>
    rw [hr] at hne
    exact ⟨rfl, fun _ => ⟨rfl, rfl, rfl, rfl⟩, fun hok => absurd (congrArg Except.error hok) hne⟩
  | ok p =>
    exact ⟨rfl, fun hfail => absurd rfl hfail,
      fun _ => ⟨State.loadHdr_srcId_of_absent, State.loadHdr_dstId_of_absent⟩⟩

/-- Log 5: what the end of a decode puts into `HDR` depends on what was found and on the draw only. -/
theorem State.finishDec_hdr_congr {s u : State} (hdraws : u.draws = s.draws) (r : Except Status (Header × Nat)) :
    (u.finishDec r).msgId = (s.finishDec r).msgId ∧ (u.finishDec r).present = (s.finishDec r).present ∧
      (u.finishDec r).srcId = (s.finishDec r).srcId ∧ (u.finishDec r).dstId = (s.finishDec r).dstId := by
  cases r <;> simp [State.finishDec, hdraws]

/-- Settles O24: over the same footprint both DECs find the same, and with the same draw they leave the same `HDR`. -/
theorem decDependsOnItsFootprintOnly : Obligations.DecDependsOnItsFootprintOnly := by
  intro s
  refine ⟨(decOutcomeIsAFunctionOfItsFootprint s).1, fun u hver hlen hdraws hbytes => ⟨_, _, exec_dec s, exec_dec u, ?_⟩⟩
  rw [hver, hlen, decResult_congr hbytes]
  obtain ⟨hstatus, hresult, -⟩ := finishDec_outcome_eq s u s.version s.len.toNat s.buf
  exact ⟨hstatus, hresult, State.finishDec_hdr_congr hdraws _⟩

/-! ## The header words -/

/-- R58, R87: a header instruction of the right version whose header fits loads it. -/
theorem exec_headerInstr_of_fits {s : State} {a b : Bool} (hfits : encodedSize a b ≤ s.len.toNat) (f : BitVec 2)
    (r : Byte) :
    ∃ t, exec (headerInstr s.version a b f r) s = .next t ∧ Ended t .ok (encodedSize a b) ∧ KeepsBuffer s t ∧
      t.header = bufHeader s.buf a b := by
  have hge := encodedSize_ge a b
  refine ⟨_, exec_headerInstr _ _ _ _ _ _, ?_, s.keepsBuffer_runHeader _ _ _, ?_⟩
  all_goals rw [s.runHeader_eq, if_neg (by omega), if_neg (not_not.mpr rfl), if_neg (by omega)]
  · exact ⟨State.finish_status _ _ _, toNat_ofNat_encodedSize a b, State.finish_busy _ _ _⟩
  · rw [State.finish_header, State.loadHdr_header]

/-- Settles O29: the shape by the two bits the mask leaves, the layout by the header each shape loads. -/
theorem headerShapesDecodeTheirLayout : Obligations.HeaderShapesDecodeTheirLayout := by
  refine ⟨mnemonic_headerOf_iff, fun s f r => ⟨fun h => ?_, fun h => ?_, fun h => ?_, fun h => ?_⟩⟩
  · exact exec_headerInstr_of_fits (a := false) (b := false) h f r
  · exact exec_headerInstr_of_fits (a := false) (b := true) h f r
  · exact exec_headerInstr_of_fits (a := true) (b := false) h f r
  · exact exec_headerInstr_of_fits (a := true) (b := true) h f r

/-- R112: the run of a header word for which a check fails ends with the code of the first one. -/
theorem State.runHeader_of_failing_check {s : State} {v : Version} {a b : Bool}
    (h : s.len.toNat < 6 ∨ v ≠ s.version ∨ s.len.toNat < encodedSize a b) :
    s.runHeader v a b = s.freeHdr.raise (if s.len.toNat < 6 then .invalidArgument
      else if v ≠ s.version then .versionMismatch else .invalidArgument) := by
  rw [s.runHeader_eq]
  split_ifs with hlen hver hfit
  · rfl
  · rfl
  · rfl
  · simp only [hlen, hver, hfit, or_self] at h

/-- Settles O30: a failing check ends the run of the word, with the free `HDR` of a failure. -/
theorem headerWordsFailInStepOrder : Obligations.HeaderWordsFailInStepOrder := by
  intro s v src dst f r hfail
  refine ⟨_, exec_headerInstr s v src dst f r, ?_, s.keepsBuffer_runHeader v src dst⟩
  rw [State.runHeader_of_failing_check hfail]
  exact ⟨State.raise_status _ _, rfl, State.raise_busy _ _⟩

/-! ## The two policies -/

/-- R91: away from a header of version `V` with both identifiers the two arithmetics are one. -/
theorem parseHeader_parity_eq_strict {v version : Version} {a b : Bool} (h : ¬(version = v ∧ a = true ∧ b = true))
    (m : Memory) (len : Nat) : parseHeader .parity v m len version a b = parseHeader .strict v m len version a b := by
  by_cases hver : version = v
  · cases a with
    | false => cases b <;> rfl
    | true =>
      cases b with
      | false => rfl
      | true => exact absurd ⟨hver, rfl, rfl⟩ h
  · rw [parseHeader, parseHeader, if_pos hver, if_pos hver]

/-- R85: STRICT asks for the 22 bytes of a header with both identifiers. -/
theorem parseHeader_strict_both (v : Version) (m : Memory) (len : Nat) :
    parseHeader .strict v m len v true true =
      if len < 22 then .error .invalidArgument else .ok (bufHeader m true true, 22) := by
  refine (parseHeader_strict v m len v true true).trans ?_
  rw [if_neg (not_not.mpr rfl), show encodedSize true true = 22 from rfl]
  by_cases h22 : len < 22
  · rw [if_pos h22, if_pos h22, ite_self]
  · rw [if_neg h22, if_neg h22, if_neg (by omega)]
    rfl

/-- R77: an identifier that is announced and for which enough bytes count as remaining is read at the cursor. -/
theorem takeId_of_fits (m : Memory) {remaining : Nat} (pos : Nat) (h : 8 ≤ remaining) :
    takeId m true remaining pos = .ok (some (m.read64 pos), pos + 8) := by
  rw [takeId, if_pos rfl, Config.nodeIdBytes, if_neg (Nat.not_lt.mpr h)]

/-- R82, R83: one for which too few do is not. -/
theorem takeId_of_short (m : Memory) {remaining : Nat} (pos : Nat) (h : remaining < 8) :
    takeId m true remaining pos = .error .invalidArgument := by
  rw [takeId, if_pos rfl, Config.nodeIdBytes, if_pos h]

/-- R91: PARITY asks for 20 bytes only: behind the source identifier it has counted off 6 bytes and not 8. -/
theorem parseHeader_parity_both (v : Version) (m : Memory) (len : Nat) :
    parseHeader .parity v m len v true true =
      if len < 20 then .error .invalidArgument else .ok (bufHeader m true true, 22) := by
  have hcount : dstRemaining .parity len 14 = len - 12 := Nat.sub_sub len 6 6
  rw [parseHeader, if_neg (not_not.mpr rfl), parseFields, Config.fixedBytes, Config.optOff]
  by_cases h14 : len < 14
  · rw [takeId_of_short m 6 (by omega), if_pos (show len < 20 by omega)]
    exact ite_self _
  rw [takeId_of_fits m 6 (by omega), if_neg (show ¬ len < 6 by omega)]
  by_cases h20 : len < 20
  · simp only [hcount, takeId_of_short m 14 (show len - 12 < 8 by omega), if_pos h20]
  · simp only [hcount, takeId_of_fits m 14 (show 8 ≤ len - 12 by omega), if_neg h20]
    rfl

/-- Settles O28: the two gates of a header with both identifiers differ from 20 bytes on and below 22. -/
theorem policiesDifferOnlyAtTwentyAndTwentyOne : Obligations.PoliciesDifferOnlyAtTwentyAndTwentyOne := by
  intro v version m len src dst
  by_cases hboth : version = v ∧ src = true ∧ dst = true
  · obtain ⟨rfl, rfl, rfl⟩ := hboth
    rw [parseHeader_strict_both, parseHeader_parity_both]
    refine ⟨?_, fun _ _ _ hlen => if_pos (by omega)⟩
    split_ifs with h22 h20 h20
    · exact iff_of_false (fun h => h rfl) (by omega)
    · exact iff_of_true (by simp) ⟨rfl, rfl, rfl, by omega⟩
    · omega
    · exact iff_of_false (fun h => h rfl) (by omega)
  · refine ⟨iff_of_false (fun h => h (parseHeader_parity_eq_strict hboth m len).symm) ?_, ?_⟩
    · exact fun ⟨hver, hsrc, hdst, _⟩ => hboth ⟨hver, hsrc, hdst⟩
    · exact fun hver hsrc hdst _ => absurd ⟨hver, hsrc, hdst⟩ hboth

/-- Settles O27: `RESULT` is the size of a header that fits in `LEN`, where PARITY accepts one of 22 bytes from 20 on. -/
theorem payloadOffsetNeverExceedsLen : Obligations.PayloadOffsetNeverExceedsLen := by
  refine ⟨fun s t ht hok => ?_, fun m v len hlen => ⟨bufHeader m true true, ?_, by omega⟩⟩
  · cases (exec_dec s).symm.trans ht
    obtain ⟨p, hp⟩ := exists_decResult_of_ok hok
    rw [hp, s.toNat_result_finishDec_ok hp]
    obtain ⟨-, hfits, rfl⟩ := decResult_eq_ok_iff.mp hp
    exact hfits
  · rw [parseHeader_parity_both, if_neg (by omega)]

end Sys2Proof.Machine
end

section
/-! The host's port (R12, R27, R71, R133, R134): what each action does to the registers and to `BUF`, the handshake of a
start line, and that a host that keeps the rules is never stopped. -/

namespace Sys2Proof.Machine

/-! ## Steps of an idle and of a busy block -/

/-- R49: on an idle block a step is the next action of the host. -/
theorem step_of_idle_action {s : State} {a : HostAction} {rest : List HostAction} (hbusy : s.busy = false)
    (hagenda : s.agenda = a :: rest) : step s = perform a (s.withAgenda rest) :=
  (step_of_agenda_cons hagenda).trans (hostStep_of_allowed (.inl hbusy))

/-- R133, R134: on a busy block what the host must not do is refused by name. -/
theorem step_of_busy_refused {s : State} {a : HostAction} {rest : List HostAction} (hbusy : s.busy = true)
    (hagenda : s.agenda = a :: rest) (ha : a.allowedBusy = false) :
    step s = .refused (if a.starts then .startWhileBusy else .hostAccessWhileBusy) :=
  (step_of_agenda_cons hagenda).trans (hostStep_of_not_allowed hbusy ha)

/-- R133: while busy the host may write no register but `BUSY`. -/
theorem allowedBusy_set {v : RegVal} (h : v.reg ≠ .busy) : (HostAction.set v).allowedBusy = false := by
  cases v with
  | busy _ => exact absurd rfl h
  | _ => rfl

/-- R133: while busy the host may read no register but `BUSY`. -/
theorem allowedBusy_get {r : Reg} (h : r ≠ .busy) : (HostAction.get r).allowedBusy = false := by
  cases r with
  | busy => exact absurd rfl h
  | _ => rfl

/-- Settles O44: none of these actions is one the host may take while `BUSY=1`, and two of them are start requests. -/
theorem busyBlockRefusesTheHost : Obligations.BusyBlockRefusesTheHost := by
  intro s a rest hbusy hagenda
  constructor
  · rintro op (rfl | rfl) <;> exact step_of_busy_refused hbusy hagenda rfl
  · rintro (⟨v, rfl, hv⟩ | ⟨r, rfl, hr⟩ | ⟨id, rfl⟩ | ⟨id, rfl⟩ | ⟨n, bs, rfl⟩ | ⟨n, c, rfl⟩)
    · exact step_of_busy_refused hbusy hagenda (allowedBusy_set hv)
    · exact step_of_busy_refused hbusy hagenda (allowedBusy_get hr)
    all_goals exact step_of_busy_refused hbusy hagenda rfl

/-! ## A disciplined host -/

/-- R140: an operation proceeds. -/
theorem proceeds_exec (i : Instr) (s : State) : Proceeds (exec i s) := by
  obtain ⟨t, ht, -⟩ := exists_exec_eq_next i s
  exact ⟨t, ht⟩

/-- R140, R141: the wait for an operation proceeds. -/
theorem proceeds_complete (s : State) : Proceeds (complete s) := by
  cases hop : s.busyOp with
  | some op => simpa only [complete, hop] using proceeds_exec (commandOf op) s
  | none => exact ⟨s, by simp only [complete, hop]⟩

/-- R31: an action within the window proceeds. -/
theorem proceeds_perform {a : HostAction} (h : a.inRange = true) (s : State) : Proceeds (perform a s) := by
  cases a with
  | load n bs | dump n c => exact ⟨_, if_pos h⟩
  | start op => exact proceeds_exec _ s
  | await => exact proceeds_complete s
  | _ => exact ⟨_, rfl⟩

/-- Settles O45: the discipline is that the next action is not refused and stays within the window. -/
theorem disciplinedHostNeverStops : Obligations.DisciplinedHostNeverStops := by
  intro s h
  cases hagenda : s.agenda with
  | nil => simpa only [step, hagenda] using proceeds_complete s
  | cons a rest =>
    simp only [State.disciplined, hagenda, Bool.and_eq_true, Bool.or_eq_true, Bool.not_eq_true'] at h
    obtain ⟨hallowed, hrange⟩ := h
    rw [step_of_agenda_cons hagenda, hostStep_of_allowed (s := s.withAgenda rest) hallowed]
    exact proceeds_perform hrange _

/-! ## Start requests -/

/-- Settles O42: a command byte decodes to the command of its low bits, and a DEC runs the word it fetches. -/
theorem stepRunsTheDecodedInstruction : Obligations.StepRunsTheDecodedInstruction := by
  refine ⟨fun s b i rest hdecode hbusy hagenda => ?_, fun s i rest hdecode hbusy hagenda => ?_⟩
  · obtain ⟨-, rfl, -⟩ := decode_cmd2_eq_ok_iff.mp hdecode
    exact step_of_idle_action hbusy hagenda
  · cases hdecode
    rw [step_of_idle_action hbusy hagenda, ← s.buf.read16_eq 0]
    exact decRunsTheHeaderWordItFetches (s.withAgenda rest)

/-- R23: the end of a decode owes nothing to the operation in progress. -/
theorem State.finishDec_withBusyOp (s : State) (op : Option OpCode) (x : Except Status (Header × Nat)) :
    (s.withBusyOp op).finishDec x = s.finishDec x := by
  cases x <;> rfl

/-- R23, R47: no instruction reads `BUSY`, and every instruction ends with 0 in it. -/
theorem exec_withBusyOp (i : Instr) (s : State) (op : Option OpCode) : exec i (s.withBusyOp op) = exec i s := by
  cases i with
  | size | enc | op3 => rfl
  | dec => rw [exec_dec, State.finishDec_withBusyOp, exec_dec]; rfl
  | hdrNone _ _ _ | hdrDst _ _ _ | hdrSrc _ _ _ | hdrBoth _ _ _ =>
    exact congrArg Host.Outcome.next (s.finishDec_withBusyOp op _)

@[simp] theorem State.withAgenda_busy (s : State) (as : List HostAction) : (s.withAgenda as).busy = s.busy := rfl

/-- R23: the registers but `BUSY` do not show the operation in progress. -/
theorem State.readReg_withBusyOp (s : State) (op : Option OpCode) {r : Reg} (h : r ≠ .busy) :
    (s.withBusyOp op).readReg r = s.readReg r := by
  cases r with
  | busy => exact absurd rfl h
  | _ => rfl

/-- The registers do not show the host's list. -/
@[simp] theorem State.readReg_withAgenda (s : State) (as : List HostAction) (r : Reg) :
    (s.withAgenda as).readReg r = s.readReg r := by
  cases r <;> rfl

/-- R71: the wait for the operation in progress runs it. -/
theorem step_of_await {s : State} {op : OpCode} {rest : List HostAction} (hop : s.busyOp = some op)
    (hagenda : s.agenda = .await :: rest) : step s = exec (commandOf op) (s.withAgenda rest) := by
  rw [step_of_agenda_cons hagenda, hostStep_of_allowed (.inr rfl)]
  simp only [perform, complete, State.withAgenda_busyOp, hop]

/-- Settles O43: the request leaves only `BUSY`, which the operation that the wait runs does not read. -/
theorem handshakeRefinesTheTransaction : Obligations.HandshakeRefinesTheTransaction := by
  intro s op rest hbusy hagenda
  refine ⟨(s.withAgenda (.await :: rest)).withBusyOp (some op), step_of_idle_action hbusy hagenda, rfl,
    ⟨rfl, rfl, rfl, rfl, rfl, fun _ => rfl⟩, fun r hr => ?_, ?_⟩
  · rw [State.readReg_withBusyOp _ _ hr, State.readReg_withAgenda]
  · calc step ((s.withAgenda (.await :: rest)).withBusyOp (some op))
        = exec (commandOf op) ((s.withAgenda rest).withBusyOp (some op)) := step_of_await rfl rfl
      _ = exec (commandOf op) (s.withAgenda rest) := exec_withBusyOp _ _ _
      _ = step (s.withAgenda (.start op :: rest)) :=
        (step_of_idle_action (s := s.withAgenda (.start op :: rest)) hbusy rfl).symm

/-! ## Host access to registers -/

/-- R12, R27: the table of a host write: the register it is for, if that is writable, and no other. -/
theorem State.readReg_writeReg (s : State) (v : RegVal) (r : Reg) :
    (s.writeReg v).readReg r = if r = v.reg ∧ r.hostWritable = true then v else s.readReg r := by
  cases v <;> cases r <;> rfl

/-- Settles O49: by the table of a host write. -/
theorem hostWriteReplacesItsRegister : Obligations.HostWriteReplacesItsRegister := by
  intro s v rest hbusy hagenda
  refine ⟨_, step_of_idle_action hbusy hagenda, ?_, fun r hr => ?_, fun a => ?_, ?_, ?_⟩
  · rw [State.readReg_writeReg, State.readReg_withAgenda]
    simp only [true_and]
  · rw [State.readReg_writeReg, if_neg fun h => hr h.1, State.readReg_withAgenda]
  · rw [(State.writeReg_version_buf _ v).2, State.withAgenda_buf]
  · cases v <;> rfl
  · cases v <;> rfl

/-- R46: the registers do not show what the host has read. -/
@[simp] theorem State.readReg_withReading (s : State) (x : Reading) (r : Reg) :
    (s.withReading x).readReg r = s.readReg r := by
  cases r <;> rfl

/-- Settles O50: a read adds to the host's readings and does nothing else. -/
theorem hostReadReturnsItsRegister : Obligations.HostReadReturnsItsRegister := by
  intro s r rest hallowed hagenda
  have hread : (s.withAgenda rest).busy = false ∨ (HostAction.get r).allowedBusy = true :=
    hallowed.imp_right fun h => by rw [h]; rfl
  refine ⟨(s.withAgenda rest).withReading (.reg ((s.withAgenda rest).readReg r)), ?_, ?_, fun q => ?_, fun _ => rfl, rfl⟩
  · rw [step_of_agenda_cons hagenda, hostStep_of_allowed hread, perform]
  · rw [State.withReading_readings, State.readReg_withAgenda, State.withAgenda_readings]
  · rw [State.readReg_withReading, State.readReg_withAgenda]

/-- R15, R71: `SETSRC` sets the source identifier of the header. -/
theorem State.setSrc_header (s : State) (id : Option NodeId) :
    (s.setSrc id).header = { msgId := s.msgId, src := id, dst := s.header.dst } := by
  cases id <;> simp [State.setSrc, State.header, State.srcValid, State.dstValid]

/-- R15, R71: `SETDST` sets the destination identifier of the header. -/
theorem State.setDst_header (s : State) (id : Option NodeId) :
    (s.setDst id).header = { msgId := s.msgId, src := s.header.src, dst := id } := by
  cases id <;> simp [State.setDst, State.header, State.srcValid, State.dstValid]

/-- Settles O51: by the header after each of the two actions; the registers they leave, by whether there is a value. -/
theorem setSrcAndSetDstSetOneIdentifier : Obligations.SetSrcAndSetDstSetOneIdentifier := by
  intro s id rest hbusy
  refine ⟨fun hagenda => ⟨_, step_of_idle_action hbusy hagenda, State.setSrc_header _ id, ?_⟩,
    fun hagenda => ⟨_, step_of_idle_action hbusy hagenda, State.setDst_header _ id, ?_⟩⟩
  all_goals
    cases id with
    | none => exact ⟨fun _ => rfl, rfl, rfl, rfl, rfl, fun _ => rfl⟩
    | some x => exact ⟨nofun, rfl, rfl, rfl, rfl, fun _ => rfl⟩

/-! ## Host access to BUF -/

/-- R46, R49: bytes stored are read back. -/
theorem Memory.bytes_setBytes (m : Memory) (n : Nat) (bs : List Byte) : (m.setBytes n bs).bytes n bs.length = bs := by
  apply List.ext_getElem
  · simp [Memory.bytes]
  · intro k hk hk'
    rw [← m.byte_setBytes_inside n k bs hk']
    simp [Memory.bytes]

/-- R31: a `LOAD` within the window. -/
theorem perform_load_of_inWindow {n : Nat} {bs : List Byte} (h : n + bs.length ≤ 22) (s : State) :
    perform (.load n bs) s = .next (s.withBuf (s.buf.setBytes n bs)) := if_pos (decide_eq_true h)

/-- R31, log 13: a `LOAD` that reaches outside the window. -/
theorem perform_load_of_outside {n : Nat} {bs : List Byte} (h : 22 < n + bs.length) (s : State) :
    perform (.load n bs) s = .fault (.noSuchByte n) :=
  if_neg fun hwin => Nat.not_le_of_lt h (of_decide_eq_true hwin)

/-- R31: a `DUMP` within the window. -/
theorem perform_dump_of_inWindow {n c : Nat} (h : n + c ≤ 22) (s : State) :
    perform (.dump n c) s = .next (s.withReading (.bytes n (s.buf.bytes n c))) := if_pos (decide_eq_true h)

/-- The registers do not show `BUF`. -/
@[simp] theorem State.readReg_withBuf (s : State) (m : Memory) (r : Reg) : (s.withBuf m).readReg r = s.readReg r := by
  cases r <;> rfl

/-- Settles O52: the `LOAD` stores its bytes and the `DUMP` reads them back, or the `LOAD` faults. -/
theorem hostLoadIsReadBack : Obligations.HostLoadIsReadBack := by
  intro s n bs rest hbusy hagenda
  have hload := step_of_idle_action hbusy hagenda
  refine ⟨fun hwin => ?_, fun hout => hload.trans (perform_load_of_outside hout _)⟩
  rw [perform_load_of_inWindow hwin] at hload
  have hdump := step_of_idle_action (s := (s.withAgenda (.dump n bs.length :: rest)).withBuf (s.buf.setBytes n bs))
    hbusy rfl
  rw [perform_dump_of_inWindow hwin] at hdump
  refine ⟨_, _, hload, hdump, ?_, fun r => ?_, fun a ha => ?_⟩
  · exact congrArg (fun x => Reading.bytes n x :: s.readings) (s.buf.bytes_setBytes n bs)
  · simp
  · exact s.buf.byte_setBytes_outside n a bs ha

end Sys2Proof.Machine
end
